-- ==== Sys2Proof/Word.lean ====
section
/-! DEFINITION. The value types of the block: bytes, command words, colour indices and IEEE 754
binary64 values (spec 00_scope.md R9, 30_encoding.md R90, R99). -/

namespace Sys2Proof

/-- A byte, 8 bits, unsigned (R9). -/
abbrev Byte := BitVec 8

/-- A command word: `OP` in bits 7:0, `IMM8` in bits 15:8 (R90). -/
abbrev Word := BitVec 16

/-- A colour index, 0 to 7 (R99). -/
abbrev Colour := BitVec 3

/-- An IEEE 754 binary64 value (R9, R28).
`finite neg m e` is `(-1)^neg * m * 2^(e - 1074)`, so `m * 2^e` counts units of the least
subnormal; the zeros keep their sign.  DESIGN CHOICE (log 17): a value, not a bit pattern, so there
is one NaN. -/
inductive Binary64
  | finite (neg : Bool) (m e : Nat)
  | inf (neg : Bool)
  | nan
deriving DecidableEq, Repr

namespace Binary64

/-- The literal `+0.0`. -/
def posZero : Binary64 := .finite false 0 0

/-- The significand and exponent are those of a binary64 datum: 53 bits of significand, normalised
unless the exponent is the least one. -/
def valid : Binary64 → Bool
  | .finite _ m e => decide (m < 2 ^ 53 ∧ (e = 0 ∨ 2 ^ 52 ≤ m) ∧ e ≤ 2045)
  | .inf _ => true
  | .nan => true

/-- The magnitude of a finite value in units of `2^-1074`; infinities and NaN have none. -/
def mag? : Binary64 → Option Nat
  | .finite _ m e => some (m * 2 ^ e)
  | .inf _ => none
  | .nan => none

/-- The sign bit; NaN counts as positive. -/
def isNeg : Binary64 → Bool
  | .finite n _ _ => n
  | .inf n => n
  | .nan => false

/-- Negation, exact (R187). -/
def neg : Binary64 → Binary64
  | .finite n m e => .finite (!n) m e
  | .inf n => .inf (!n)
  | .nan => .nan

end Binary64

end Sys2Proof
end

