-- ==== Sys2Proof/Config.lean ====
section
/-! DEFINITION. The implementation parameters of 00_scope.md R7. A configuration is plain data and is
fixed for the life of a machine (log 1); `Config.default` holds the value R7 gives each parameter. -/

namespace Sys2Proof

/-- The parameters of R7; the colours are in 0..7 by their type (W5). -/
structure Config where
  /-- `CLK_HZ`, hardware ticks per second. -/
  clkHz : Nat
  /-- `SR_HZ`, SAMPLE steps per second. -/
  srHz : Nat
  /-- `PAUSE_T`, inter-block pause in ticks. -/
  pauseT : Nat
  /-- `LEAD_T`, lead-tone half-cycle in ticks. -/
  leadT : Nat
  /-- `SYNC1_T`, ticks. -/
  sync1T : Nat
  /-- `SYNC2_T`, ticks. -/
  sync2T : Nat
  /-- `BIT0_T`, half-cycle of a 0 bit, ticks. -/
  bit0T : Nat
  /-- `BIT1_T`, half-cycle of a 1 bit, ticks. -/
  bit1T : Nat
  /-- `LEAD_N_HDR`, lead half-cycles of a header block. -/
  leadNHdr : Nat
  /-- `LEAD_N_DATA`, lead half-cycles of any other block. -/
  leadNData : Nat
  /-- `LINE_T`, one scanline in ticks. -/
  lineT : Nat
  /-- `N_LINES`, scanlines per frame. -/
  nLines : Nat
  /-- `N_STORED`, stored scanline entries. -/
  nStored : Nat
  /-- `COL_IDLE`. -/
  colIdle : Colour
  /-- `COL_LEAD_LO`. -/
  colLeadLo : Colour
  /-- `COL_LEAD_HI`. -/
  colLeadHi : Colour
  /-- `COL_DATA_LO`. -/
  colDataLo : Colour
  /-- `COL_DATA_HI`. -/
  colDataHi : Colour
  /-- `LEVEL`, the output magnitude. -/
  level : Binary64
  /-- `N_CH`, audio output channels. -/
  nCh : Nat
  /-- `CONT_MAX`, the largest container accepted; `none` is the limit-free model of R123. -/
  contMax : Option Nat
deriving DecidableEq, Repr

namespace Config

/-- The binary64 value nearest 0.1 (R187). -/
def tenth : Binary64 := .finite false 0x1999999999999A 1018

/-- The values of R7.  PRESUMED by the spec itself where R7 says "from general knowledge" (log 5);
DESIGN CHOICE for the three open parameters: `SR_HZ` = 44 100 (log 2), one channel (log 3), no
container limit (log 4). -/
def default : Config where
  clkHz := 3500000
  srHz := 44100
  pauseT := 3500000
  leadT := 2168
  sync1T := 667
  sync2T := 735
  bit0T := 855
  bit1T := 1710
  leadNHdr := 8063
  leadNData := 3223
  lineT := 224
  nLines := 312
  nStored := 256
  colIdle := 7
  colLeadLo := 2
  colLeadHi := 5
  colDataLo := 1
  colDataHi := 6
  level := tenth
  nCh := 1
  contMax := none

/-- `MIN_T` of W2: the shortest timeline interval in ticks. -/
def minT (c : Config) : Nat :=
  min c.pauseT (min c.leadT (min c.sync1T (min c.sync2T (min c.bit0T c.bit1T))))

/-- The colour READ_SNAP answers for an index past the entries of `snap`, which R218 does not give: its
"every `idx` is valid" holds "since `N_STORED = 256`" (DESIGN CHOICE, log 26).  A free value, a function
of the two things the read depends on. -/
opaque snapBeyond : List Colour → Byte → Colour

/-- The scanline budget `LINE_T * SR_HZ` in scaled units (R211). -/
def lineBudget (c : Config) : Nat := c.lineT * c.srHz

end Config

end Sys2Proof
end

