-- ==== Sys2Proof/Syntax.lean ====
section
/-! DEFINITION. The seven commands of the opcode map (30_encoding.md R93, opcode_table.json). -/

namespace Sys2Proof

/-- A command with its operands assembled (R91, R92). -/
inductive Instr
  /-- NOP (R190). -/
  | nop
  /-- SAMPLE (R180). -/
  | sample
  /-- ATTACH with its side operand, the container bytes delivered whole (R120). -/
  | attach (bytes : List Byte)
  /-- DETACH (R124). -/
  | detach
  /-- ACK_FRAME (R217). -/
  | ackFrame
  /-- READ_STATUS (R191). -/
  | readStatus
  /-- READ_SNAP with its index `IMM8` (R218). -/
  | readSnap (idx : Byte)
deriving DecidableEq, Repr

end Sys2Proof
end

