-- ==== Sys2Proof/WellFormed.lean ====
section
/-! DEFINITION. Which configurations are machines (00_scope.md R8, W1 to W6, with the parameter
domains of R7), and which commands are well formed. -/

namespace Sys2Proof

namespace Config

/-- W1: every duration and both rates are at least 1. -/
def w1 (c : Config) : Bool :=
  decide (1 ≤ c.pauseT ∧ 1 ≤ c.leadT ∧ 1 ≤ c.sync1T ∧ 1 ≤ c.sync2T ∧ 1 ≤ c.bit0T ∧ 1 ≤ c.bit1T ∧
    1 ≤ c.lineT ∧ 1 ≤ c.clkHz ∧ 1 ≤ c.srHz)

/-- W2: one sample period is no longer than the shortest timeline interval. -/
def w2 (c : Config) : Bool := decide (c.clkHz ≤ c.minT * c.srHz)

/-- W3: one sample period is no longer than one scanline. -/
def w3 (c : Config) : Bool := decide (c.clkHz ≤ c.lineBudget)

/-- W4: both lead counts are in 1..65535. -/
def w4 (c : Config) : Bool :=
  decide (1 ≤ c.leadNHdr ∧ c.leadNHdr ≤ 65535 ∧ 1 ≤ c.leadNData ∧ c.leadNData ≤ 65535)

/-- W5: no more entries are stored than there are scanlines; the colours are in 0..7 by their type. -/
def w5 (c : Config) : Bool := decide (c.nStored ≤ c.nLines)

/-- W6: a 1 bit is longer than a 0 bit. -/
def w6 (c : Config) : Bool := decide (c.bit0T < c.bit1T)

/-- R7, domain of `N_CH`: at least one channel. -/
def channelsOk (c : Config) : Bool := decide (1 ≤ c.nCh)

/-- `N_LINES`: the scanline counter runs over `0..N_LINES-1` in its 9 bits (R40), so it is 1..512
(DEDUCED, log 6). -/
def linesOk (c : Config) : Bool := decide (1 ≤ c.nLines ∧ c.nLines ≤ 512)

/-- R7, domain of `LEVEL`: a magnitude, so a finite binary64 value that is not negative (DEDUCED,
log 7). -/
def levelOk (c : Config) : Bool :=
  match c.level with
  | .finite n m e => !n && Binary64.valid (.finite n m e)
  | .inf _ => false
  | .nan => false

/-- R8, with the domains of the parameters: the configuration may be instantiated. -/
def wf (c : Config) : Bool :=
  c.w1 && (c.w2 && (c.w3 && (c.w4 && (c.w5 && (c.w6 && (c.channelsOk && (c.linesOk && c.levelOk)))))))

end Config

/-- Every command the type can write is well formed: `idx` is 8 bits, every value valid (R218), and
the side operand of ATTACH is any byte sequence, `0 ≤ n` (R92). -/
def Instr.wf : Instr → Bool
  | .nop => true
  | .sample => true
  | .attach _ => true
  | .detach => true
  | .ackFrame => true
  | .readStatus => true
  | .readSnap _ => true

end Sys2Proof
end

