-- ==== Sys2Proof/Decode.lean ====
section
/-! DEFINITION. The decoder of 30_encoding.md R105, total on every word and every byte sequence,
and after it the encoder of R93 and R103. -/

namespace Sys2Proof

/-- Why a word or a byte sequence is not a command. -/
inductive Reject
  /-- The word matches no row of R93 (R94). -/
  | reserved (w : Word)
  /-- Fewer than the two bytes of a command word (R90). -/
  | truncated
deriving DecidableEq, Repr

/-- `OP = word[7:0]` (R90). -/
def wordOp (w : Word) : Byte := w.extractLsb' 0 8

/-- `IMM8 = word[15:8]` (R90). -/
def wordImm (w : Word) : Byte := w.extractLsb' 8 8

/-- R105, with the side operand of ATTACH beside the word (R92).  A side operand beside any other
word is not looked at (DESIGN CHOICE, log 10). -/
def decode (w : Word) (side : List Byte) : Except Reject Instr :=
  if wordOp w = 0x06 then .ok (.readSnap (wordImm w))
  else if wordImm w = 0x00 then
    if wordOp w = 0x00 then .ok .nop
    else if wordOp w = 0x01 then .ok .sample
    else if wordOp w = 0x02 then .ok (.attach side)
    else if wordOp w = 0x03 then .ok .detach
    else if wordOp w = 0x04 then .ok .ackFrame
    else if wordOp w = 0x05 then .ok .readStatus
    else .error (.reserved w)
  else .error (.reserved w)

/-- R103: one command off a byte stream, `OP` then `IMM8`; ATTACH takes all that is left of its
message as side operand (DEDUCED from "delivered whole", log 25), any other command leaves it. -/
def decodeBytes : List Byte → Except Reject (Instr × List Byte)
  | op :: imm :: rest =>
    match decode (imm ++ op) rest with
    | .error r => .error r
    | .ok (.attach bytes) => .ok (.attach bytes, [])
    | .ok i => .ok (i, rest)
  | _ => .error .truncated

/-- The `n` low bytes of a number, least significant first. -/
def littleEndianBytes : Nat → Nat → List Byte
  | 0, _ => []
  | n + 1, v => BitVec.ofNat 8 v :: littleEndianBytes n (v / 256)

/-- The bytes of a table word: `nbits` bits of `w`, and zeros up to the two bytes of a command word
(log 24). -/
def tableWordBytes (nbits w : Nat) : List Byte :=
  littleEndianBytes (max 2 ((nbits + 7) / 8)) (w % 2 ^ nbits)

/-- What the decoder reads from an instruction whose table bits are `w`. -/
def decodeTableWord (nbits w : Nat) : Option Instr :=
  match decodeBytes (tableWordBytes nbits w) with
  | .ok (i, _) => some i
  | .error _ => none

/-- The `OP` column of R93. -/
def Instr.opcode : Instr → Byte
  | .nop => 0x00
  | .sample => 0x01
  | .attach _ => 0x02
  | .detach => 0x03
  | .ackFrame => 0x04
  | .readStatus => 0x05
  | .readSnap _ => 0x06

/-- The `IMM8` field: the index for READ_SNAP, 0x00 for every other opcode (R90). -/
def Instr.imm8 : Instr → Byte
  | .nop => 0x00
  | .sample => 0x00
  | .attach _ => 0x00
  | .detach => 0x00
  | .ackFrame => 0x00
  | .readStatus => 0x00
  | .readSnap idx => idx

/-- The side operand that travels beside the word: ATTACH's bytes, none otherwise (R92). -/
def Instr.side : Instr → List Byte
  | .nop => []
  | .sample => []
  | .attach bytes => bytes
  | .detach => []
  | .ackFrame => []
  | .readStatus => []
  | .readSnap _ => []

/-- The command word of R90: `IMM8` above `OP`. -/
def Instr.word (i : Instr) : Word := i.imm8 ++ i.opcode

/-- The word and the side operand of a command. -/
def encode (i : Instr) : Word × List Byte := (i.word, i.side)

/-- The bytes a command assembles to for a byte-stream host (R103). -/
def encodeBytes (i : Instr) : List Byte := i.opcode :: i.imm8 :: i.side

end Sys2Proof
end

