-- ==== Sys2Proof/Machine/Float.lean ====
section
/-! DEFINITION. IEEE 754 binary64 addition and multiplication, rounding to nearest, ties to even
(00_scope.md R9), and the output filter (42_encoder.md R188). Operands are taken to exact integers,
the exact result is formed, and it is rounded once. -/

namespace Sys2Proof.Binary64

/-- `n / d` rounded to the nearest integer, ties to even (`d` is not 0). -/
def roundDiv (n d : Nat) : Nat :=
  if d < 2 * (n % d) ∨ (2 * (n % d) = d ∧ n / d % 2 = 1) then n / d + 1 else n / d

/-- The exponent of the binary64 grid around `n / 2^k` units of `2^-1074`: 53 significant bits, or
the least exponent. -/
def gridExp (n k : Nat) : Nat := Nat.log2 (n / 2 ^ k) - 52

/-- A significand and exponent as a value: a significand that rounding carried to `2^53` is
normalised, and an exponent past the largest one is an infinity. -/
def pack (neg : Bool) (m e : Nat) : Binary64 :=
  if m = 2 ^ 53 then
    if 2045 < e + 1 then .inf neg else .finite neg (2 ^ 52) (e + 1)
  else if 2045 < e then .inf neg
  else .finite neg m e

/-- `fl` of R188: the binary64 value nearest `(-1)^neg * n / 2^k` units of `2^-1074`, ties to
even. -/
def round (neg : Bool) (n k : Nat) : Binary64 :=
  pack neg (roundDiv n (2 ^ (k + gridExp n k))) (gridExp n k)

/-- A finite value as a signed count of units. -/
def signedUnits (neg : Bool) (m e : Nat) : Int :=
  if neg then -(m * 2 ^ e : Nat) else (m * 2 ^ e : Nat)

/-- The rounded sum.  A sum that is exactly 0 is `-0.0` only when both operands are negative. -/
def add : Binary64 → Binary64 → Binary64
  | .nan, _ => .nan
  | _, .nan => .nan
  | .inf s, .inf t => if s = t then .inf s else .nan
  | .inf s, .finite _ _ _ => .inf s
  | .finite _ _ _, .inf t => .inf t
  | .finite s m e, .finite t n f =>
    if signedUnits s m e + signedUnits t n f = 0 then .finite (s && t) 0 0
    else round (decide (signedUnits s m e + signedUnits t n f < 0))
      (signedUnits s m e + signedUnits t n f).natAbs 0

/-- The rounded product. -/
def mul : Binary64 → Binary64 → Binary64
  | .nan, _ => .nan
  | _, .nan => .nan
  | .inf s, .inf t => .inf (s ^^ t)
  | .inf s, .finite t n _ => if n = 0 then .nan else .inf (s ^^ t)
  | .finite s m _, .inf t => if m = 0 then .nan else .inf (s ^^ t)
  | .finite s m e, .finite t n f => round (s ^^ t) (m * 2 ^ e * (n * 2 ^ f)) 1074

/-- The literal 0.25. -/
def quarter : Binary64 := .finite false (2 ^ 52) 1020

/-- The literal 0.75. -/
def threeQuarters : Binary64 := .finite false (3 * 2 ^ 51) 1021

/-- `filterStep(y, x) = fl(fl(y * 0.25) + fl(x * 0.75))` (R188), the spec's default (log 18). -/
def filterStep (y x : Binary64) : Binary64 := add (mul y quarter) (mul x threeQuarters)

/-- The value of a binary64 bit pattern: sign, biased exponent, fraction. -/
def ofBits (b : BitVec 64) : Binary64 :=
  if b.extractLsb' 52 11 = 0x7FF then
    if b.extractLsb' 0 52 = 0 then .inf (b.getLsbD 63) else .nan
  else if b.extractLsb' 52 11 = 0 then .finite (b.getLsbD 63) (b.extractLsb' 0 52).toNat 0
  else .finite (b.getLsbD 63) (2 ^ 52 + (b.extractLsb' 0 52).toNat) ((b.extractLsb' 52 11).toNat - 1)

end Sys2Proof.Binary64
end

