-- ==== Sys2Proof/Machine/State.lean ====
section
/-! DEFINITION. The state of the block (10_state.md R20 to R43, R49), the reasons a step can stop,
and the state after RESET (70_reset_and_hazards.md R260). All of it is plain data. -/

namespace Sys2Proof.Machine

/-- The container memory: (address, byte) cells (20_memory.md R60).  Canonical form `Memory.wf`;
an unlisted address holds no byte, and reading it raises OOB_READ (R61, log 15). -/
abbrev Memory := List Host.Cell

/-- The cells are exactly the addresses `a`, `a+1`, ... in rising order. -/
def Memory.wfFrom : Nat → Memory → Bool
  | _, [] => true
  | a, (k, _) :: m => decide (k = a) && Memory.wfFrom (a + 1) m

/-- The canonical form: the addresses are 0..clen-1, strictly rising, each listed once (R22, R60). -/
def Memory.wf (m : Memory) : Bool := Memory.wfFrom 0 m

/-- The output polarity, 1 bit: `+1` (encoded 1) or `-1` (encoded 0) (R27). -/
inductive Polarity
  | plus
  | minus
deriving DecidableEq, Repr

/-- A level sign given to the border sampler: `+1`, `-1` or 0 (R210). -/
inductive Sign
  | plus
  | minus
  | zero
deriving DecidableEq, Repr

/-- The phases of a timeline (R37). -/
inductive Phase
  | pause
  | lead
  | sync1
  | sync2
  | data
  | complete
deriving DecidableEq, Repr

/-- The timeline record (R29 to R36), with the widths the rules give. -/
structure Timeline where
  /-- `pause_pend` (R29). -/
  pausePend : Bool
  /-- `lead_rem` (R30). -/
  leadRem : BitVec 16
  /-- `sync1_pend` (R31). -/
  sync1Pend : Bool
  /-- `sync2_pend` (R31). -/
  sync2Pend : Bool
  /-- `off` (R32). -/
  off : BitVec 16
  /-- `bitx` (R33). -/
  bitx : BitVec 3
  /-- `hc` (R34). -/
  hc : BitVec 2
  /-- `acc`, in scaled units (R35). -/
  acc : Nat
  /-- `L`, the block's length field (R36). -/
  len : BitVec 16
  /-- `base`, the address of the block's flag byte (R36). -/
  base : Nat
deriving DecidableEq, Repr

/-- The border sampler's state (R39 to R43). -/
structure Border where
  /-- `buf`, a colour per stored scanline (R39). -/
  buf : List Colour
  /-- `line`, the scanline counter (R40). -/
  line : BitVec 9
  /-- `bacc`, in scaled units (R41). -/
  bacc : Nat
  /-- `fr`, frame-ready (R42). -/
  fr : Bool
  /-- `snap`, the snapshot buffer (R43). -/
  snap : List Colour
deriving DecidableEq, Repr

/-- The block's messages to the host (R97). -/
inductive Event
  /-- DONE: playback is exhausted (R238). -/
  | done
  /-- FRAME with the `N_STORED` entries of `snap` (R239). -/
  | frame (snap : List Colour)
deriving DecidableEq, Repr

/-- The response codes (R95). -/
inductive RespCode
  | ok
  | malformed
  | refused
  | capacity
deriving DecidableEq, Repr

/-- The sample values of a SAMPLE step: the raw level, the audio value, and the audio value as
written to each output channel (R95, R189). -/
structure Sample where
  x : Binary64
  y : Binary64
  channels : List Binary64
deriving DecidableEq, Repr

/-- The response record of a step (R95). -/
structure Response where
  code : RespCode
  rdata : Byte
  sample : Option Sample
  events : List Event
deriving DecidableEq, Repr

/-- What the host can give the block (R272): the reset input, or a command word with the bytes that
travel beside it. -/
inductive Input
  | reset
  | command (word : Word) (side : List Byte)
deriving DecidableEq, Repr

/-- The state.  `cfg`, `out` and `inputs` are the model's own fields (logs 1, 11, 8); the rest is what
the spec gives the block.  `clen` and `nblk` are views (log 16). -/
structure State where
  /-- The configuration (R7), which no step changes. -/
  cfg : Config
  /-- `att`, a container is attached (R21). -/
  att : Bool
  /-- `cont`, the container memory (R22). -/
  cont : Memory
  /-- `blk`, the block table (R23). -/
  blk : List Nat
  /-- `bidx`, the current block index (R24). -/
  bidx : Nat
  /-- `tl`, the active timeline or none (R25). -/
  tl : Option Timeline
  /-- `fin`, finished (R26). -/
  fin : Bool
  /-- `pol`, the output polarity (R27). -/
  pol : Polarity
  /-- `filt`, the state of the output filter (R28). -/
  filt : Binary64
  /-- The border sampler (R39 to R43). -/
  border : Border
  /-- `faulted`, a model mark (R49, R236). -/
  faulted : Bool
  /-- `refused_seen`, a model mark (R49, R233). -/
  refusedSeen : Bool
  /-- The response of the latest step, none before the first one. -/
  out : Option Response
  /-- The inputs the host has still to give, the next one first. -/
  inputs : List Input
deriving DecidableEq, Repr

/-- `clen`, the number of container bytes (R22). -/
def State.clen (s : State) : Nat := s.cont.length

/-- `nblk`, the number of blocks (R23). -/
def State.nblk (s : State) : Nat := s.blk.length

/-- Why a step stops with a fault (R236).  Each errs toward unprovable, so each is safe. -/
inductive Fault
  /-- `INVARIANT`, raised by SAMPLE: `dur` or `advance` asked of a COMPLETE timeline, or a counter out
  of its range (R143, R236).  Safe: the machine stops. -/
  | invariant
  /-- `OOB_READ`, raised by SAMPLE: a container read outside `0..clen-1` (R61, R236).  Safe: the machine
  stops. -/
  | oobRead
  /-- Raised by `step` where the mark `faulted` is set: no step leaves the fault state (R10, R236).
  Safe: the machine stops. -/
  | faultState
deriving DecidableEq, Repr

/-- Why a step is refused. -/
inductive Refusal
  /-- Raised by `exec` for a command that has no meaning yet.  Safe: the machine stops. -/
  | notModelled (mnemonic : String)
  /-- Raised by `step`: the configuration fails R8, so there is no such machine (R235).  Safe: the
  machine stops. -/
  | configRefused
deriving DecidableEq, Repr

/-- The border sampler after RESET (R260). -/
def Border.resetWith (c : Config) : Border where
  buf := List.replicate c.nStored c.colIdle
  line := 0
  bacc := 0
  fr := false
  snap := List.replicate c.nStored c.colIdle

/-- The reset values of R260 in configuration `c`. -/
def State.resetWith (c : Config) : State where
  cfg := c
  att := false
  cont := []
  blk := []
  bidx := 0
  tl := none
  fin := false
  pol := .plus
  filt := .posZero
  border := Border.resetWith c
  faulted := false
  refusedSeen := false
  out := none
  inputs := []

/-- The machine right after RESET, in the configuration R7 gives (logs 2 to 5). -/
def State.reset : State := State.resetWith Config.default

end Sys2Proof.Machine
end

