-- ==== Sys2Proof/Machine/Flags.lean ====
section
/-! DEFINITION. The derived views of the one-bit state (10_state.md R47): the phase of a timeline
(R37), its code (30_encoding.md R98), the STATUS register (R44), and the codes of responses and
events (R95, R97). There are no arithmetic condition codes. -/

namespace Sys2Proof.Machine

/-- R37: the phase, derived from the counters in that priority order. -/
def Timeline.phase (t : Timeline) : Phase :=
  if t.pausePend then .pause
  else if 0 < t.leadRem.toNat then .lead
  else if t.sync1Pend then .sync1
  else if t.sync2Pend then .sync2
  else if t.off.toNat < t.len.toNat then .data
  else .complete

/-- R98: the phase codes.  COMPLETE has no code of its own; it never holds between steps, and 0
stands here for "no timeline runs" (DESIGN CHOICE, log 19). -/
def Phase.code : Phase → BitVec 3
  | .pause => 1
  | .lead => 2
  | .sync1 => 3
  | .sync2 => 4
  | .data => 5
  | .complete => 0

/-- `PHASE`, bits 6:4 of STATUS (R44). -/
def State.phaseField (s : State) : BitVec 3 :=
  match s.tl with
  | none => 0
  | some t => t.phase.code

/-- The encoding of the polarity bit (R27). -/
def Polarity.bit : Polarity → Bool
  | .plus => true
  | .minus => false

/-- STATUS (R44): POL, PHASE, ACT, FR, FIN, ATT from bit 7 down to bit 0. -/
def State.status (s : State) : Byte :=
  BitVec.ofBool s.pol.bit ++ s.phaseField ++ BitVec.ofBool s.tl.isSome ++
    BitVec.ofBool s.border.fr ++ BitVec.ofBool s.fin ++ BitVec.ofBool s.att

/-- The response codes (R95). -/
def RespCode.code : RespCode → Byte
  | .ok => 0x00
  | .malformed => 0x01
  | .refused => 0x02
  | .capacity => 0x03

/-- The event codes (R97). -/
def Event.code : Event → Byte
  | .done => 0x01
  | .frame _ => 0x02

end Sys2Proof.Machine
end

