-- ==== Sys2Proof/Machine/Operands.lean ====
section
/-! DEFINITION. The operands a command works on: the immediate index of READ_SNAP (30_encoding.md
R91), the side operand of ATTACH (R92), the polarity as a level and as a sign (42_encoder.md R187,
43_border.md R210), and the border tag of a phase (R185). -/

namespace Sys2Proof.Machine

/-- The entry of `snap` at `idx = zext_8(IMM8)` (R91, R218).  Past the last entry, which needs an
`N_STORED` below 256, it is a free value (log 26). -/
def snapEntry (snap : List Colour) (idx : Byte) : Colour :=
  match snap[idx.toNat]? with
  | some c => c
  | none => Config.snapBeyond snap idx

/-- A colour as read data, zero-extended to 8 bits (R95, R218). -/
def colourData (c : Colour) : Byte := c.setWidth 8

/-- The cells of a byte sequence from address `a` on. -/
def Memory.load : Nat → List Byte → Memory
  | _, [] => []
  | a, b :: bytes => (a, b) :: Memory.load (a + 1) bytes

/-- The copy ATTACH takes of its side operand (R92, R120). -/
def Memory.ofBytes (bytes : List Byte) : Memory := Memory.load 0 bytes

/-- The other polarity. -/
def Polarity.flip : Polarity → Polarity
  | .plus => .minus
  | .minus => .plus

/-- The polarity as a level sign. -/
def Polarity.sign : Polarity → Sign
  | .plus => .plus
  | .minus => .minus

/-- `level(+1) = +LEVEL`, `level(-1) = -LEVEL` (R187). -/
def level (c : Config) : Polarity → Binary64
  | .plus => c.level
  | .minus => c.level.neg

/-- The colour pair `(lo, hi)` of a phase before the advance (R185).  A COMPLETE timeline is never
advanced; it gets the idle pair. -/
def tag (c : Config) : Phase → Colour × Colour
  | .pause => (c.colIdle, c.colIdle)
  | .lead => (c.colLeadLo, c.colLeadHi)
  | .sync1 => (c.colLeadLo, c.colLeadHi)
  | .sync2 => (c.colLeadLo, c.colLeadHi)
  | .data => (c.colDataLo, c.colDataHi)
  | .complete => (c.colIdle, c.colIdle)

/-- The lead count of a flag byte (R141). -/
def leadCount (c : Config) (flag : Byte) : BitVec 16 :=
  if flag = 0x00 then BitVec.ofNat 16 c.leadNHdr else BitVec.ofNat 16 c.leadNData

end Sys2Proof.Machine
end

