-- ==== Sys2Proof/Machine/Ops.lean ====
section
/-! DEFINITION. The named operations over the container memory (20_memory.md R61, R62) and over the
state (00_scope.md R10): responding, refusing, restarting playback, the reset input. The block
takes no exceptions and returns from none (60_exceptions.md R237); what stands in that place is
`State.refuse` (R233) and the faults of R236. -/

namespace Sys2Proof.Machine

/-- `MemRead(a, 1)` (R61): the byte at `a`, or none outside the container. -/
def Memory.read : Memory → Nat → Option Byte
  | [], _ => none
  | (k, b) :: m, a => if k = a then some b else Memory.read m a

/-- `MemRead16(a)`, little endian (R10, R62). -/
def Memory.read16 (m : Memory) (a : Nat) : Option (BitVec 16) :=
  match m.read a, m.read (a + 1) with
  | some lo, some hi => some (hi ++ lo)
  | _, _ => none

/-- The bytes held, in address order. -/
def Memory.bytes (m : Memory) : List Byte := m.map Prod.snd

/-- `respond(code, data)` for a step with no sample and no events (R10, R95). -/
def State.respond (s : State) (code : RespCode) (rdata : Byte) : State :=
  { s with out := some { code := code, rdata := rdata, sample := none, events := [] } }

/-- `refuse` (R233): the response is REFUSED, no hardware state changes, and the mark
`refused_seen` is set. -/
def State.refuse (s : State) : State :=
  { s.respond .refused 0x00 with refusedSeen := true }

/-- The container and its table, replaced whole (R120, R124). -/
def State.setContainer (s : State) (att : Bool) (cont : Memory) (blk : List Nat) : State :=
  { s with att := att, cont := cont, blk := blk }

/-- The encoder at the start of a playback: `bidx` 0, no timeline, not finished, polarity `+1`
(R120, R124). -/
def State.restart (s : State) : State :=
  { s with bidx := 0, tl := none, fin := false, pol := .plus }

/-- The timeline and the polarity after an advance (R184). -/
def State.setPlayback (s : State) (tl : Timeline) (pol : Polarity) : State :=
  { s with tl := some tl, pol := pol }

/-- A new border sampler state. -/
def State.setBorder (s : State) (b : Border) : State := { s with border := b }

/-- The end of a block (R186). -/
def State.endBlock (s : State) : State := { s with tl := none, bidx := s.bidx + 1 }

/-- `fin <- 1` (R183). -/
def State.setFin (s : State) : State := { s with fin := true }

/-- The end of SAMPLE (R180, R188, R189): the filter takes the level `x`, and the response carries
`x`, the audio value, its copy for each channel, and the events. -/
def State.deliver (s : State) (x : Binary64) (events : List Event) : State :=
  { s with
    filt := Binary64.filterStep s.filt x
    out := some
      { code := .ok
        rdata := 0x00
        sample := some
          { x := x
            y := Binary64.filterStep s.filt x
            channels := List.replicate s.cfg.nCh (Binary64.filterStep s.filt x) }
        events := events } }

/-- RESET asserted (R260): every element takes its reset value, in the same configuration; the host's
further inputs are not the block's to clear. -/
def State.assertReset (s : State) : State := { State.resetWith s.cfg with inputs := s.inputs }

/-- The input taken off the front of the host's list. -/
def State.takeInput (s : State) (rest : List Input) : State := { s with inputs := rest }

end Sys2Proof.Machine
end

