-- ==== Sys2Proof/Machine/Container.lean ====
section
/-! DEFINITION. TapeContainer: the validation walk, ATTACH and DETACH (40_container.md R120 to
R127). -/

namespace Sys2Proof.Machine

/-- The loop of R121 from address `p`, with `fuel` iterations at hand: the addresses of the length
fields from there on, or none for MALFORMED. -/
def walkFrom (B : List Byte) : Nat → Nat → Option (List Nat)
  | 0, _ => none
  | fuel + 1, p =>
    if p < B.length then
      match B[p]?, B[p + 1]? with
      | some lo, some hi =>
        if (hi ++ lo : BitVec 16).toNat = 0 then none
        else if B.length < p + 2 + (hi ++ lo : BitVec 16).toNat then none
        else (walkFrom B fuel (p + 2 + (hi ++ lo : BitVec 16).toNat)).map (p :: ·)
      | _, _ => none
    else some []

/-- `walk(B)` (R121).  Every accepted block is at least 3 bytes long, so the fuel outlasts the
loop. -/
def walk (B : List Byte) : Option (List Nat) := walkFrom B (B.length + 1) 0

/-- `n > CONT_MAX` (R123); with no limit it never holds. -/
def overCapacity (c : Config) (n : Nat) : Bool :=
  match c.contMax with
  | none => false
  | some limit => decide (limit < n)

/-- ATTACH (R120): capacity first (R123), then the walk (R122), and only then a write. -/
def execAttach (B : List Byte) (s : State) : Host.Outcome State Fault Refusal :=
  if overCapacity s.cfg B.length then .next (s.respond .capacity 0x00)
  else
    match walk B with
    | none => .next (s.respond .malformed 0x00)
    | some T => .next (((s.setContainer true (Memory.ofBytes B) T).restart).respond .ok 0x00)

/-- DETACH (R124). -/
def execDetach (s : State) : Host.Outcome State Fault Refusal :=
  .next (((s.setContainer false [] []).restart).respond .ok 0x00)

/-- `blockCount()` (R125). -/
def State.blockCount (s : State) : Nat := s.nblk

/-- `blockAt(i)` (R125): the flag byte, and the payload region as its first address and its length. -/
def State.blockAt (s : State) (i : Nat) : Option (Byte × Nat × Nat) :=
  match s.blk[i]? with
  | none => none
  | some p =>
    match s.cont.read16 p, s.cont.read (p + 2) with
    | some L, some flag => some (flag, p + 2, L.toNat)
    | _, _ => none

/-- `totalLength()` (R125). -/
def State.totalLength (s : State) : Nat := s.clen

end Sys2Proof.Machine
end

