-- ==== Sys2Proof/Machine/Border.lean ====
section
/-! DEFINITION. BorderSampler: the record operation, the terminal snapshot, ACK_FRAME and READ_SNAP
(43_border.md R210 to R218). -/

namespace Sys2Proof.Machine

/-- The committed colour: `hi` if the sign is positive, `lo` otherwise (R212). -/
def commitColour (lo hi : Colour) : Sign → Colour
  | .plus => hi
  | .minus => lo
  | .zero => lo

/-- `BufWrite(line, c)`, for a stored scanline only (R213). -/
def Border.store (c : Config) (b : Border) (col : Colour) : Border :=
  if b.line.toNat < c.nStored then { b with buf := b.buf.set b.line.toNat col } else b

/-- The copy of `buf` into `snap`, with frame-ready raised (R215, R216). -/
def Border.takeSnap (b : Border) : Border := { b with snap := b.buf, fr := true }

/-- The scanline counter after a commit, and the frame wrap (R214, R215). -/
def Border.nextLine (c : Config) (fin : Bool) (b : Border) : Border × List Event :=
  if b.line.toNat + 1 = c.nLines then
    if fin then ({ b with line := 0 }, [])
    else (Border.takeSnap { b with line := 0 }, [.frame b.buf])
  else ({ b with line := b.line + 1 }, [])

/-- `border(s, lo, hi)` (R210): one sample period, with at most one commit (R211). -/
def Border.record (c : Config) (fin : Bool) (sgn : Sign) (lo hi : Colour) (b : Border) :
    Border × List Event :=
  if c.lineBudget < b.bacc + c.clkHz then
    (Border.store c { b with bacc := b.bacc + c.clkHz - c.lineBudget }
      (commitColour lo hi sgn)).nextLine c fin
  else ({ b with bacc := b.bacc + c.clkHz }, [])

/-- `terminalSnapshot()` (R216). -/
def Border.terminal (c : Config) (b : Border) : Border × List Event :=
  (Border.takeSnap { b with buf := List.replicate c.nStored c.colIdle },
    [.frame (List.replicate c.nStored c.colIdle)])

/-- `border(s, lo, hi)` inside a step: the new state and the events it emits. -/
def State.record (s : State) (sgn : Sign) (lo hi : Colour) : State × List Event :=
  (s.setBorder (s.border.record s.cfg s.fin sgn lo hi).1,
    (s.border.record s.cfg s.fin sgn lo hi).2)

/-- ACK_FRAME (R217). -/
def execAckFrame (s : State) : Host.Outcome State Fault Refusal :=
  .next ((s.setBorder { s.border with fr := false }).respond .ok 0x00)

/-- READ_SNAP (R218). -/
def execReadSnap (idx : Byte) (s : State) : Host.Outcome State Fault Refusal :=
  .next (s.respond .ok (colourData (snapEntry s.border.snap idx)))

end Sys2Proof.Machine
end

