-- ==== Sys2Proof/Machine/Timeline.lean ====
section
/-! DEFINITION. BlockPhaseTimeline: construction, the interval threshold and the advance
(41_timeline.md R140 to R150). -/

namespace Sys2Proof.Machine

/-- `newTL(i)` for a block whose length field is at `p` (R140 to R142). -/
def newTimeline (c : Config) (m : Memory) (i p : Nat) : Except Fault Timeline :=
  match m.read16 p, m.read (p + 2) with
  | some L, some flag => .ok
    { pausePend := decide (0 < i)
      leadRem := leadCount c flag
      sync1Pend := true
      sync2Pend := true
      off := 0
      bitx := 7
      hc := 2
      acc := 0
      len := L
      base := p + 2 }
  | _, _ => .error .oobRead

/-- `dur(tl)`, the length of the current interval in ticks (R143). -/
def Timeline.dur (c : Config) (m : Memory) (t : Timeline) : Except Fault Nat :=
  match t.phase with
  | .pause => .ok c.pauseT
  | .lead => .ok c.leadT
  | .sync1 => .ok c.sync1T
  | .sync2 => .ok c.sync2T
  | .data =>
    match m.read (t.base + t.off.toNat) with
    | some b => .ok (if b.getLsbD t.bitx.toNat then c.bit1T else c.bit0T)
    | none => .error .oobRead
  | .complete => .error .invariant

/-- The counters that R236 checks and their widths leave open: `hc` is 1 or 2, and `off ≤ L`
(log 14). -/
def Timeline.intact (t : Timeline) : Bool :=
  (decide (t.hc = 1) || decide (t.hc = 2)) && decide (t.off.toNat ≤ t.len.toNat)

/-- The DATA event's counters (R149). -/
def Timeline.dataEvent (t : Timeline) : Timeline :=
  if t.hc = 2 then { t with hc := 1 }
  else if t.bitx = 0 then { t with hc := 2, bitx := 7, off := t.off + 1 }
  else { t with hc := 2, bitx := t.bitx - 1 }

/-- The event of a phase (R145 to R149): the new counters, and whether the polarity flips.  COMPLETE
has none; `dur` has already raised INVARIANT there. -/
def Timeline.event (t : Timeline) : Phase → Timeline × Bool
  | .pause => ({ t with pausePend := false }, false)
  | .lead => ({ t with leadRem := t.leadRem - 1 }, true)
  | .sync1 => ({ t with sync1Pend := false }, true)
  | .sync2 => ({ t with sync2Pend := false }, true)
  | .data => (t.dataEvent, true)
  | .complete => (t, false)

/-- The accumulator, given a value. -/
def Timeline.setAcc (t : Timeline) (acc : Nat) : Timeline := { t with acc := acc }

/-- `advance(tl)` (R144), with the checks of R236. -/
def Timeline.advance (c : Config) (m : Memory) (t : Timeline) : Except Fault (Timeline × Bool) :=
  if t.intact then
    match t.dur c m with
    | .error f => .error f
    | .ok d =>
      if t.acc + c.clkHz < d * c.srHz then .ok (t.setAcc (t.acc + c.clkHz), false)
      else .ok ((t.setAcc (t.acc + c.clkHz - d * c.srHz)).event t.phase)
  else .error .invariant

end Sys2Proof.Machine
end

