-- ==== Sys2Proof/Machine/Encoder.lean ====
section
/-! DEFINITION. TapeSignalEncoder: SAMPLE, NOP and READ_STATUS (42_encoder.md R180 to R191). -/

namespace Sys2Proof.Machine

/-- NOP (R190). -/
def execNop (s : State) : Host.Outcome State Fault Refusal := .next (s.respond .ok 0x00)

/-- READ_STATUS (R191). -/
def execReadStatus (s : State) : Host.Outcome State Fault Refusal := .next (s.respond .ok s.status)

/-- The end of a SAMPLE that feeds the border sampler the idle pair with sign `sgn` and returns the
level `x`, after the events `before` (R181 to R183). -/
def State.idleSample (s : State) (sgn : Sign) (x : Binary64) (before : List Event) : State :=
  (s.record sgn s.cfg.colIdle s.cfg.colIdle).1.deliver x
    (before ++ (s.record sgn s.cfg.colIdle s.cfg.colIdle).2)

/-- `finish()` (R183): `fin` is set, DONE is emitted, and the terminal snapshot is taken. -/
def State.finish (s : State) : State × List Event :=
  (s.setFin.setBorder (s.border.terminal s.cfg).1, .done :: (s.border.terminal s.cfg).2)

/-- R186: a timeline that has become COMPLETE is discarded in the same step. -/
def State.endIfComplete (s : State) (t : Timeline) : State :=
  if t.phase = .complete then s.endBlock else s

/-- The end of a SAMPLE that advanced a timeline (R184 to R187): `t` is the timeline before the
advance, `t'` and `flip` what the advance answered.  The border sampler gets the polarity before the
flip and the tag of the phase before the advance. -/
def State.playSample (s : State) (t t' : Timeline) (flip : Bool) : State :=
  let s1 := s.setPlayback t' (if flip then s.pol.flip else s.pol)
  let r := s1.record s.pol.sign (tag s.cfg t.phase).1 (tag s.cfg t.phase).2
  let s2 := r.1.endIfComplete t'
  s2.deliver (level s2.cfg s2.pol) r.2

/-- SAMPLE with the timeline `t` present (R184). -/
def State.runTimeline (s : State) (t : Timeline) : Host.Outcome State Fault Refusal :=
  match t.advance s.cfg s.cont with
  | .error f => .fault f
  | .ok (t', flip) => .next (s.playSample t t' flip)

/-- SAMPLE with no timeline (R183): the next block starts, or playback finishes.  `blk[bidx]?` is none
exactly when `bidx ≥ nblk`. -/
def State.startOrFinish (s : State) : Host.Outcome State Fault Refusal :=
  match s.blk[s.bidx]? with
  | none => .next (s.finish.1.idleSample s.pol.sign (level s.cfg s.pol) s.finish.2)
  | some p =>
    match newTimeline s.cfg s.cont s.bidx p with
    | .error f => .fault f
    | .ok t => s.runTimeline t

/-- SAMPLE (R180): the no-container path (R181), the finished path (R182), the next block or the
finish (R183), or the advance of the timeline (R184). -/
def execSample (s : State) : Host.Outcome State Fault Refusal :=
  if s.att = false then .next (s.idleSample .zero .posZero [])
  else if s.fin then .next (s.idleSample s.pol.sign (level s.cfg s.pol) [])
  else
    match s.tl with
    | none => s.startOrFinish
    | some t => s.runTimeline t

end Sys2Proof.Machine
end

