-- ==== Sys2Proof/Machine/Dispatch.lean ====
section
/-! DEFINITION. One arm per command of the opcode map (30_encoding.md R93). -/

namespace Sys2Proof.Machine

def exec (i : Instr) (s : State) : Host.Outcome State Fault Refusal :=
  match i with
  | .nop => Sys2Proof.Machine.execNop s
  | .sample => Sys2Proof.Machine.execSample s
  | .attach bytes => Sys2Proof.Machine.execAttach bytes s
  | .detach => Sys2Proof.Machine.execDetach s
  | .ackFrame => Sys2Proof.Machine.execAckFrame s
  | .readStatus => Sys2Proof.Machine.execReadStatus s
  | .readSnap idx => Sys2Proof.Machine.execReadSnap idx s

end Sys2Proof.Machine
end

