-- ==== Sys2Proof/Machine/Step.lean ====
section
/-! DEFINITION. One step: the block takes the host's next input (00_scope.md R6, 30_encoding.md R90).
A configuration that fails R8 is no machine (R235); the reset input works in any state (R260, R272);
no other step leaves the fault state (R10, R236); a reserved word is refused (R94). -/

namespace Sys2Proof.Machine

/-- A command word with the bytes beside it: decoded and run, or refused (R94, R105). -/
def stepCommand (word : Word) (side : List Byte) (s : State) : Host.Outcome State Fault Refusal :=
  match decode word side with
  | .ok i => exec i s
  | .error _ => .next s.refuse

/-- One step.  With no input pending the block holds its state (R20, R247; log 9). -/
def step (s : State) : Host.Outcome State Fault Refusal :=
  if s.cfg.wf then
    match s.inputs with
    | .reset :: rest => .next (s.takeInput rest).assertReset
    | .command word side :: rest =>
      if s.faulted then .fault .faultState else stepCommand word side (s.takeInput rest)
    | [] => if s.faulted then .fault .faultState else .next s
  else .refused .configRefused

/-- The word and the side operand that stand in a table word of `nbits` bits: the bytes after the
first two are a side operand (log 24). -/
def tableInput (nbits w : Nat) : Input :=
  match tableWordBytes nbits w with
  | op :: imm :: side => .command (imm ++ op) side
  | _ => .command 0 []

/-- The state with that command given next by the host (logs 8, 24). -/
def State.withFetchWord (s : State) (nbits w : Nat) : State :=
  { s with inputs := tableInput nbits w :: s.inputs }

/-- The state a step leaves behind, with the mark `faulted` set by a fault (R49, R236; log 13).  A
refused step leaves the state it found. -/
def State.after (s : State) : State :=
  match step s with
  | .next t => t
  | .fault _ => { s with faulted := true }
  | .refused _ => s

end Sys2Proof.Machine
end

