-- ==== Sys2Proof/Machine/Assembler.lean ====
section
/-! DEFINITION. The command assembly syntax and its pseudo-instructions (30_encoding.md R103, R104),
with the container builder behind ATTACHBLK (20_memory.md R65). It is a tool beside the block: `step`
never reads it. What the rules leave open of the text form is in log 23. -/

namespace Sys2Proof.Machine

/-- A line of assembly that is not blank. -/
inductive AsmLine
  /-- A command. -/
  | command (i : Instr)
  /-- `SAMPLE*n`. -/
  | sampleTimes (n : Nat)
  /-- `ATTACHBLK (f0, [p...]), ...`: a flag and the data bytes for each block. -/
  | attachBlocks (blocks : List (Byte × List Byte))
  /-- `RESET`, the reset input. -/
  | reset
deriving DecidableEq, Repr

/-- A lexical item: a run of letters and digits, or one of `[ ] ( ) , *`. -/
inductive Token
  | word (text : List Char)
  | punct (c : Char)
deriving DecidableEq, Repr

/-- The checksum of a block: the exclusive-or of the flag byte and the data bytes (R65). -/
def checksum (flag : Byte) (data : List Byte) : Byte := data.foldl (· ^^^ ·) flag

/-- The bytes of one block `(f, P)`: the length of `f`, `P` and the checksum, little endian, then
those (R104). -/
def blockBytes (flag : Byte) (data : List Byte) : List Byte :=
  littleEndianBytes 2 (data.length + 2) ++ (flag :: data ++ [checksum flag data])

/-- R104 needs `k + 2 ≤ 65535`. -/
def blockFits (data : List Byte) : Bool := decide (data.length + 2 ≤ 65535)

/-- The blocks concatenated in order (R104). -/
def containerBytes (blocks : List (Byte × List Byte)) : List Byte :=
  blocks.flatMap fun b => blockBytes b.1 b.2

/-- A command as the host gives it. -/
def commandInput (i : Instr) : Input := .command i.word i.side

/-- The expansion of a line (R104); a block that is too long has none. -/
def AsmLine.expand : AsmLine → Option (List Input)
  | .command i => some [commandInput i]
  | .sampleTimes n => some (List.replicate n (commandInput .sample))
  | .attachBlocks blocks =>
    if blocks.all (fun b => blockFits b.2) then some [commandInput (.attach (containerBytes blocks))]
    else none
  | .reset => some [.reset]

/-- A pending word as a token list. -/
def flushWord : List Char → List Token
  | [] => []
  | c :: cs => [.word (c :: cs)]

/-- The characters that stand for themselves. -/
def isPunct (c : Char) : Bool := ['[', ']', '(', ')', ',', '*'].contains c

/-- The tokens of a line; `;` starts a comment (R103).  The second list is the word read so far. -/
def lex : List Char → List Char → List Token
  | [], acc => flushWord acc
  | c :: cs, acc =>
    if c = ';' then flushWord acc
    else if c.isWhitespace then flushWord acc ++ lex cs []
    else if isPunct c then flushWord acc ++ (.punct c :: lex cs [])
    else lex cs (acc ++ [c])

/-- The value of a digit in base 16. -/
def hexDigit (c : Char) : Option Nat :=
  if '0' ≤ c ∧ c ≤ '9' then some (c.toNat - 48)
  else if 'a' ≤ c ∧ c ≤ 'f' then some (c.toNat - 87)
  else if 'A' ≤ c ∧ c ≤ 'F' then some (c.toNat - 55)
  else none

/-- A byte as two hex digits (R103). -/
def hexByte : List Char → Option Byte
  | [hi, lo] =>
    match hexDigit hi, hexDigit lo with
    | some h, some l => some (BitVec.ofNat 8 (16 * h + l))
    | _, _ => none
  | _ => none

/-- A decimal number, given the value of the digits before. -/
def decimalFrom : Nat → List Char → Option Nat
  | v, [] => some v
  | v, c :: cs => if '0' ≤ c ∧ c ≤ '9' then decimalFrom (10 * v + (c.toNat - 48)) cs else none

/-- A decimal number of at least one digit. -/
def decimal : List Char → Option Nat
  | [] => none
  | c :: cs => decimalFrom 0 (c :: cs)

/-- A byte value: decimal 0..255, or `0xNN` (R103). -/
def byteNumber : List Char → Option Byte
  | '0' :: 'x' :: digits => hexByte digits
  | cs =>
    match decimal cs with
    | some v => if v ≤ 255 then some (BitVec.ofNat 8 v) else none
    | none => none

/-- Bytes up to a closing bracket, and the tokens after it. -/
def hexBytes : List Token → Option (List Byte × List Token)
  | .punct ']' :: rest => some ([], rest)
  | .word w :: rest =>
    match hexByte w, hexBytes rest with
    | some b, some (bs, rest') => some (b :: bs, rest')
    | _, _ => none
  | _ => none

/-- The operand blocks of ATTACHBLK, at most `fuel` of them. -/
def blockOperands : Nat → List Token → Option (List (Byte × List Byte))
  | fuel + 1, .punct '(' :: .word f :: .punct ',' :: .punct '[' :: rest =>
    match byteNumber f, hexBytes rest with
    | some flag, some (data, [.punct ')']) => some [(flag, data)]
    | some flag, some (data, .punct ')' :: .punct ',' :: more) =>
      (blockOperands fuel more).map ((flag, data) :: ·)
    | _, _ => none
  | _, _ => none

/-- A mnemonic with no operand. -/
def plainLine (w : List Char) : Option AsmLine :=
  if w = "NOP".toList then some (.command .nop)
  else if w = "SAMPLE".toList then some (.command .sample)
  else if w = "DETACH".toList then some (.command .detach)
  else if w = "ACKF".toList then some (.command .ackFrame)
  else if w = "RDSTAT".toList then some (.command .readStatus)
  else if w = "ATTACHBLK".toList then some (.attachBlocks [])
  else if w = "RESET".toList then some .reset
  else none

/-- A mnemonic with operands. -/
def operandLine (w : List Char) (rest : List Token) : Option AsmLine :=
  if w = "ATTACH".toList then
    match rest with
    | .punct '[' :: more =>
      match hexBytes more with
      | some (bytes, []) => some (.command (.attach bytes))
      | _ => none
    | _ => none
  else if w = "RDSNAP".toList then
    match rest with
    | [.word n] => (byteNumber n).map fun idx => .command (.readSnap idx)
    | _ => none
  else if w = "SAMPLE".toList then
    match rest with
    | [.punct '*', .word n] => (decimal n).map .sampleTimes
    | _ => none
  else if w = "ATTACHBLK".toList then (blockOperands (rest.length + 1) rest).map .attachBlocks
  else none

/-- The inputs a line of text assembles to; a blank line or a comment gives none of them. -/
def assembleLine (text : List Char) : Option (List Input) :=
  match lex text [] with
  | [] => some []
  | [.word w] => (plainLine w).bind AsmLine.expand
  | .word w :: rest => (operandLine w rest).bind AsmLine.expand
  | _ => none

/-- The inputs of a program, one line each (R103). -/
def assemble : List String → Option (List Input)
  | [] => some []
  | line :: lines =>
    match assembleLine line.toList, assemble lines with
    | some a, some b => some (a ++ b)
    | _, _ => none

end Sys2Proof.Machine
end

