-- ==== Sys2Proof/Safety.lean ====
section
/-! DEFINITION. The terms in which claims about the block are made: the invariant of a reachable state
(10_state.md R24, R35, R38, R41, 41_timeline.md R152, R157, 43_border.md R219), repeated SAMPLEs, and
the closed forms of R153 to R155 and of the walk (R121). Nothing here is read by `step`. -/

namespace Sys2Proof.Machine

/-! ### The invariant -/

/-- What holds of the timeline of block `i`, whose length field is at `p`, at the start of a step. -/
structure Timeline.Inv (c : Config) (m : Memory) (i p : Nat) (t : Timeline) : Prop where
  /-- `L` is the length field, at least 1 (R36), and the block lies in the container (R61). -/
  len_read : m.read16 p = some t.len
  len_pos : 0 < t.len.toNat
  fits : p + 2 + t.len.toNat ≤ m.length
  /-- `base` is the address of the flag byte (R36). -/
  base_eq : t.base = p + 2
  /-- `hc` is 1 or 2, `off ≤ L` (R32, R34). -/
  intact : t.intact = true
  /-- The phase is never COMPLETE (R38). -/
  active : t.phase ≠ .complete
  /-- The countdowns are spent in order (R157). -/
  pause_first : t.pausePend = true → 0 < i ∧ 0 < t.leadRem.toNat
  lead_first : 0 < t.leadRem.toNat → t.sync1Pend = true
  sync1_first : t.sync1Pend = true → t.sync2Pend = true
  sync2_first : t.sync2Pend = true → t.off = 0 ∧ t.bitx = 7 ∧ t.hc = 2
  /-- The lead count never exceeds the block's own (R30). -/
  lead_le : ∃ flag, m.read (p + 2) = some flag ∧ t.leadRem.toNat ≤ (leadCount c flag).toNat ∧
    (t.pausePend = true → t.leadRem = leadCount c flag)
  /-- No lateness (R35, R152). -/
  in_time : ∃ d, t.dur c m = .ok d ∧ t.acc < d * c.srHz

/-- What holds of every state a machine reaches from RESET. -/
structure State.Inv (s : State) : Prop where
  /-- The configuration is well formed (R8). -/
  cfg_wf : s.cfg.wf = true
  /-- No fault has been raised (R236). -/
  no_fault : s.faulted = false
  /-- The container is in its canonical form and within `CONT_MAX` (R22). -/
  cont_wf : s.cont.wf = true
  cont_fits : overCapacity s.cfg s.clen = false
  /-- The block table is the walk of the container (R23). -/
  blk_walk : walk s.cont.bytes = some s.blk
  /-- The block index is in `0..nblk` (R24). -/
  bidx_le : s.bidx ≤ s.nblk
  /-- With no container there is nothing to play (R124, R260). -/
  detached : s.att = false → s.cont = [] ∧ s.tl = none ∧ s.fin = false ∧ s.pol = .plus
  /-- Finished means every block was played and no timeline is left (R183). -/
  finished : s.fin = true → s.bidx = s.nblk ∧ s.tl = none
  /-- The timeline is that of block `bidx` (R24, R25). -/
  timeline : ∀ t, s.tl = some t → ∃ p, s.blk[s.bidx]? = some p ∧ t.Inv s.cfg s.cont s.bidx p
  /-- The scanline counter is in `0..N_LINES-1` (R40). -/
  line_lt : s.border.line.toNat < s.cfg.nLines
  /-- The scanline accumulator is within its budget (R41). -/
  bacc_le : s.border.bacc ≤ s.cfg.lineBudget
  /-- Both buffers have `N_STORED` entries (R39, R43). -/
  buf_length : s.border.buf.length = s.cfg.nStored
  snap_length : s.border.snap.length = s.cfg.nStored
  /-- The filter holds a binary64 value (R28). -/
  filt_valid : s.filt.valid = true

/-- A state that no fault and no refusal has marked: the premise R49 asks of claims about a run. -/
def State.Unmarked (s : State) : Prop := s.faulted = false ∧ s.refusedSeen = false

/-! ### Repeated steps -/

/-- `n` SAMPLE commands, one after the other; none where one of them does not answer a next state. -/
def sampleN : Nat → State → Option State
  | 0, s => some s
  | n + 1, s =>
    match sampleN n s with
    | some t =>
      match exec .sample t with
      | .next u => some u
      | .fault _ => none
      | .refused _ => none
    | none => none

/-- `n` advances of a timeline, with the number of polarity flips they made. -/
def advanceN (c : Config) (m : Memory) : Nat → Timeline → Except Fault (Timeline × Nat)
  | 0, t => .ok (t, 0)
  | n + 1, t =>
    match advanceN c m n t with
    | .error f => .error f
    | .ok (u, k) =>
      match u.advance c m with
      | .error f => .error f
      | .ok (v, flip) => .ok (v, k + flip.toNat)

/-- The border sampler after one `record` for each sign and colour pair of the list. -/
def Border.recordAll (c : Config) (fin : Bool) : List (Sign × Colour × Colour) → Border → Border
  | [], b => b
  | (sgn, lo, hi) :: rest, b => Border.recordAll c fin rest (b.record c fin sgn lo hi).1

/-! ### Closed forms -/

/-- The half-cycle of bit `k` of a byte, in ticks (R143). -/
def bitTicks (c : Config) (b : Byte) (k : Nat) : Nat := if b.getLsbD k then c.bit1T else c.bit0T

/-- The ticks of the bits `7 .. 8-n` of a byte, two half-cycles each. -/
def highBitsTicks (c : Config) (b : Byte) : Nat → Nat
  | 0 => 0
  | n + 1 => highBitsTicks c b n + 2 * bitTicks c b (7 - n)

/-- The ticks of a whole byte. -/
def byteTicks (c : Config) (b : Byte) : Nat := highBitsTicks c b 8

/-- The byte at `a`; every address asked about lies in the container. -/
def byteAt (m : Memory) (a : Nat) : Byte := (m.read a).getD 0

/-- The ticks of the first `n` bytes from address `a`. -/
def bytesTicks (c : Config) (m : Memory) (a : Nat) : Nat → Nat
  | 0 => 0
  | n + 1 => bytesTicks c m a n + byteTicks c (byteAt m (a + n))

/-- `C_K` of R153: the ticks of the intervals a timeline of block `i` has finished. -/
def Timeline.elapsed (c : Config) (m : Memory) (i : Nat) (t : Timeline) : Nat :=
  (if 0 < i ∧ t.pausePend = false then c.pauseT else 0) +
    ((leadCount c (byteAt m t.base)).toNat - t.leadRem.toNat) * c.leadT +
    (if t.sync1Pend then 0 else c.sync1T) +
    (if t.sync2Pend then 0 else c.sync2T) +
    bytesTicks c m t.base t.off.toNat +
    highBitsTicks c (byteAt m (t.base + t.off.toNat)) (7 - t.bitx.toNat) +
    (if t.hc = 1 then bitTicks c (byteAt m (t.base + t.off.toNat)) t.bitx.toNat else 0)

/-- The polarity flips a timeline has made (R155). -/
def Timeline.flips (c : Config) (m : Memory) (t : Timeline) : Nat :=
  ((leadCount c (byteAt m t.base)).toNat - t.leadRem.toNat) +
    (!t.sync1Pend).toNat + (!t.sync2Pend).toNat +
    16 * t.off.toNat + 2 * (7 - t.bitx.toNat) + (if t.hc = 1 then 1 else 0)

/-- `T_i` of R154 for block `i` with its length field at `p` and `L` payload bytes. -/
def blockTicks (c : Config) (m : Memory) (i p L : Nat) : Nat :=
  (if 0 < i then c.pauseT else 0) + (leadCount c (byteAt m (p + 2))).toNat * c.leadT +
    c.sync1T + c.sync2T + bytesTicks c m (p + 2) L

/-- `⌈ticks * SR_HZ / CLK_HZ⌉`: the SAMPLE step by whose end that many ticks have gone by (R153). -/
def samplesFor (c : Config) (ticks : Nat) : Nat := (ticks * c.srHz + c.clkHz - 1) / c.clkHz

/-- `S_i` of R154: the SAMPLE in which block `i` completes, counted from its first. -/
def blockSamples (c : Config) (m : Memory) (i p L : Nat) : Nat := samplesFor c (blockTicks c m i p L)

/-- The length field at an address; every address asked about holds one. -/
def lenAt (m : Memory) (p : Nat) : Nat := ((m.read16 p).getD 0).toNat

/-- `S_0 + S_1 + ...` over a block table whose first entry is block `i` (R193). -/
def playSamplesFrom (c : Config) (m : Memory) : Nat → List Nat → Nat
  | _, [] => 0
  | i, p :: ps => blockSamples c m i p (lenAt m p) + playSamplesFrom c m (i + 1) ps

/-- A byte sequence as length-prefixed blocks (R64): each payload region behind its length. -/
def tile : List (List Byte) → List Byte
  | [] => []
  | payload :: rest => littleEndianBytes 2 payload.length ++ payload ++ tile rest

/-- The addresses of the length fields of those blocks, the first at `p` (R66). -/
def starts : Nat → List (List Byte) → List Nat
  | _, [] => []
  | p, payload :: rest => p :: starts (p + 2 + payload.length) rest

/-- The order of the phases (R157). -/
def Phase.rank : Phase → Nat
  | .pause => 0
  | .lead => 1
  | .sync1 => 2
  | .sync2 => 3
  | .data => 4
  | .complete => 5

/-- A half-cycle heard as a bit: long is 1 (R151). -/
def heardBit (c : Config) (d : Nat) : Bool := decide (d = c.bit1T)

end Sys2Proof.Machine
end

