-- ==== Sys2Proof/Certificates/Slice0/Obligations.lean ====
section
/-! DEFINITION. The statements about the block, one per rule or group of rules of spec/. -/

open Sys2Proof Sys2Proof.Machine

/-! ### Reset, steps and decoding -/

/-- R260: the reset input, in any state, writes the table's reset values, in the same configuration,
and answers no response, sample or event. -/
def Obligations.ResetWritesTableValues : Prop :=
  ∀ (s : State) (rest : List Input), s.cfg.wf = true → s.inputs = .reset :: rest →
    ∃ t, step s = .next t ∧
      t.att = false ∧ t.cont = [] ∧ t.clen = 0 ∧ t.blk = [] ∧ t.nblk = 0 ∧ t.bidx = 0 ∧ t.tl = none ∧
      t.fin = false ∧ t.pol = .plus ∧ t.filt = .finite false 0 0 ∧
      t.border.buf = List.replicate s.cfg.nStored s.cfg.colIdle ∧ t.border.line = 0 ∧ t.border.bacc = 0 ∧
      t.border.fr = false ∧ t.border.snap = List.replicate s.cfg.nStored s.cfg.colIdle ∧
      t.status = 0x80 ∧ t.faulted = false ∧ t.refusedSeen = false ∧
      t.cfg = s.cfg ∧ t.out = none ∧ t.inputs = rest

/-- The state after RESET meets the invariant, in every well-formed configuration, the one of
`State.reset` among them (the parameter values of that one are logs 2 to 5). -/
def Obligations.ResetMeetsInvariant : Prop :=
  (∀ c : Config, c.wf = true → (State.resetWith c).Inv) ∧ State.reset.Inv

/-- `State.reset` carries the values R7 gives the parameters; the three that R7 leaves open (`SR_HZ`,
`N_CH`, `CONT_MAX`, logs 2 to 4) are not in this statement. -/
def Obligations.ResetParametersHaveTableValues : Prop :=
  State.reset.cfg.clkHz = 3500000 ∧ State.reset.cfg.pauseT = 3500000 ∧
  State.reset.cfg.leadT = 2168 ∧ State.reset.cfg.sync1T = 667 ∧ State.reset.cfg.sync2T = 735 ∧
  State.reset.cfg.bit0T = 855 ∧ State.reset.cfg.bit1T = 1710 ∧ State.reset.cfg.leadNHdr = 8063 ∧
  State.reset.cfg.leadNData = 3223 ∧ State.reset.cfg.lineT = 224 ∧ State.reset.cfg.nLines = 312 ∧
  State.reset.cfg.nStored = 256 ∧ State.reset.cfg.colIdle = 7 ∧ State.reset.cfg.colLeadLo = 2 ∧
  State.reset.cfg.colLeadHi = 5 ∧ State.reset.cfg.colDataLo = 1 ∧ State.reset.cfg.colDataHi = 6 ∧
  State.reset.cfg.level = Binary64.ofBits 0x3FB999999999999A

/-- R6, R90, R105: a command that decodes is performed, by itself and in this step, on the state with
that one input taken. -/
def Obligations.StepRunsDecodedCommand : Prop :=
  ∀ (s : State) (w : Word) (side : List Byte) (rest : List Input) (i : Instr),
    s.cfg.wf = true → s.faulted = false → s.inputs = .command w side :: rest → decode w side = .ok i →
      step s = exec i { s with inputs := rest }

/-- R94: a reserved word, `OP` 0x07 to 0xFF or a nonzero `IMM8` on `OP` 0x00 to 0x05, is refused: the
response is REFUSED, the mark is set, and nothing else changes. -/
def Obligations.ReservedWordIsRefused : Prop :=
  ∀ (s : State) (w : Word) (side : List Byte) (rest : List Input),
    s.cfg.wf = true → s.faulted = false → s.inputs = .command w side :: rest →
    (0x07 ≤ (w.extractLsb' 0 8).toNat ∨
      ((w.extractLsb' 0 8).toNat ≤ 0x05 ∧ w.extractLsb' 8 8 ≠ 0)) →
      step s = .next { s with
        inputs := rest
        refusedSeen := true
        out := some { code := .refused, rdata := 0x00, sample := none, events := [] } }

/-- R93 and the vectors V-D1 to V-D12: words written out decode to their commands, or to none. -/
def Obligations.DecodeReadsWrittenOutWords : Prop :=
  decode 0x0000 [] = .ok .nop ∧ decode 0x0001 [] = .ok .sample ∧
  decode 0x0002 [0x01, 0x00, 0xFF] = .ok (.attach [0x01, 0x00, 0xFF]) ∧
  decode 0x0003 [] = .ok .detach ∧ decode 0x0004 [] = .ok .ackFrame ∧
  decode 0x0005 [] = .ok .readStatus ∧ decode 0x0506 [] = .ok (.readSnap 5) ∧
  decode 0xFF06 [] = .ok (.readSnap 255) ∧ decode 0x0007 [] = .error (.reserved 0x0007) ∧
  decode 0x0101 [] = .error (.reserved 0x0101) ∧ decode 0x00FF [] = .error (.reserved 0x00FF)

/-- Decoding an encoded command gives it back, from its word and side operand and from its bytes. -/
def Obligations.DecodeOfEncodeIsCommand : Prop :=
  ∀ i : Instr, i.wf = true →
    decode (encode i).1 (encode i).2 = .ok i ∧ decodeBytes (encodeBytes i) = .ok (i, [])

/-- Each command has one word: a word that decodes is the word of what it decodes to, and every other
word is reserved. -/
def Obligations.DecodedWordIsItsCommandsWord : Prop :=
  ∀ (w : Word) (side : List Byte),
    (∀ i, decode w side = .ok i → i.word = w ∧ (i.side = side ∨ i.side = [])) ∧
    (decode w side = .error (.reserved w) ↔ ∀ i : Instr, i.word ≠ w)

/-! ### The commands that do not move time -/

/-- R190: the word 0x0000 is NOP, which responds OK in any state and writes nothing else. -/
def Obligations.NopOnlyResponds : Prop :=
  (∀ side, decode 0x0000 side = .ok .nop) ∧
  ∀ s : State, exec .nop s = .next { s with
    out := some { code := .ok, rdata := 0x00, sample := none, events := [] } }

/-- R191: the word 0x0005 is READ_STATUS, which responds with STATUS and writes nothing else. -/
def Obligations.ReadStatusAnswersStatus : Prop :=
  (∀ side, decode 0x0005 side = .ok .readStatus) ∧
  ∀ s : State, exec .readStatus s = .next { s with
    out := some { code := .ok, rdata := s.status, sample := none, events := [] } }

/-- The STATUS table of R44 with the codes of R98, bit by bit, and its value after reset. -/
def Obligations.StatusBitsShowState : Prop :=
  (∀ s : State,
    s.status.getLsbD 0 = s.att ∧ s.status.getLsbD 1 = s.fin ∧ s.status.getLsbD 2 = s.border.fr ∧
    s.status.getLsbD 3 = s.tl.isSome ∧ (s.status.getLsbD 7 = true ↔ s.pol = .plus) ∧
    (s.status.extractLsb' 4 3).toNat ≤ 5 ∧
    (s.tl = none → s.status.extractLsb' 4 3 = 0) ∧
    (∀ t, s.tl = some t →
      (t.pausePend = true → s.status.extractLsb' 4 3 = 1) ∧
      (t.pausePend = false → 0 < t.leadRem.toNat → s.status.extractLsb' 4 3 = 2) ∧
      (t.pausePend = false → t.leadRem.toNat = 0 → t.sync1Pend = true →
        s.status.extractLsb' 4 3 = 3) ∧
      (t.pausePend = false → t.leadRem.toNat = 0 → t.sync1Pend = false → t.sync2Pend = true →
        s.status.extractLsb' 4 3 = 4) ∧
      (t.pausePend = false → t.leadRem.toNat = 0 → t.sync1Pend = false → t.sync2Pend = false →
        t.off.toNat < t.len.toNat → s.status.extractLsb' 4 3 = 5))) ∧
  (∀ c : Config, (State.resetWith c).status = 0x80)

/-- R217: the word 0x0004 is ACK_FRAME, which clears `fr`, responds OK, and leaves all else, `snap`
included. -/
def Obligations.AckFrameClearsFrameReady : Prop :=
  (∀ side, decode 0x0004 side = .ok .ackFrame) ∧
  ∀ s : State, exec .ackFrame s = .next { s with
    border := { s.border with fr := false }
    out := some { code := .ok, rdata := 0x00, sample := none, events := [] } }

/-- R218: the words with `OP` 0x06 are READ_SNAP with `IMM8` as index; with `N_STORED` 256 every index
0..255 has its entry, and READ_SNAP responds with it, zero-extended to 8 bits, and writes nothing
else. -/
def Obligations.ReadSnapAnswersEntry : Prop :=
  (∀ (w : Word) side, w.extractLsb' 0 8 = 0x06 → decode w side = .ok (.readSnap (w.extractLsb' 8 8))) ∧
  ∀ (idx : Byte) (s : State), s.cfg.nStored = 256 → s.border.snap.length = s.cfg.nStored →
    ∃ col, s.border.snap[idx.toNat]? = some col ∧
      exec (.readSnap idx) s = .next { s with
        out := some { code := .ok, rdata := col.setWidth 8, sample := none, events := [] } }

/-- READ_SNAP in any configuration.  The entry where there is one; past the last entry, which needs
another `N_STORED` than R7's, the model's choice is a free 3-bit value (DESIGN CHOICE, log 26).  Either
way it completes and writes nothing else. -/
def Obligations.ReadSnapCompletesInAnyConfiguration : Prop :=
  ∀ (idx : Byte) (s : State), ∃ col : Colour,
    (∀ e, s.border.snap[idx.toNat]? = some e → col = e) ∧
    exec (.readSnap idx) s = .next { s with
      out := some { code := .ok, rdata := col.setWidth 8, sample := none, events := [] } }

/-- R124: the word 0x0003 is DETACH, which empties the container and the encoder, and leaves the filter
and the border sampler. -/
def Obligations.DetachEmptiesEncoder : Prop :=
  (∀ side, decode 0x0003 side = .ok .detach) ∧
  ∀ s : State, exec .detach s = .next { s with
    cont := [], blk := [], att := false, bidx := 0, tl := none, fin := false, pol := .plus
    out := some { code := .ok, rdata := 0x00, sample := none, events := [] } }

/-- R120, R122, R123: the word 0x0002 is ATTACH of the bytes beside it.  It answers CAPACITY, then
MALFORMED, and in both cases changes no state; otherwise it copies the bytes, stores the table, and
restarts playback. -/
def Obligations.AttachAcceptsOrChangesNothing : Prop :=
  (∀ B, decode 0x0002 B = .ok (.attach B)) ∧
  (∀ B : List Byte, (Memory.ofBytes B).wf = true ∧ (Memory.ofBytes B).bytes = B) ∧
  ∀ (B : List Byte) (s : State),
    (∀ limit, s.cfg.contMax = some limit → limit < B.length →
      exec (.attach B) s = .next { s with
        out := some { code := .capacity, rdata := 0x00, sample := none, events := [] } }) ∧
    ((∀ limit, s.cfg.contMax = some limit → B.length ≤ limit) →
      (walk B = none →
        exec (.attach B) s = .next { s with
          out := some { code := .malformed, rdata := 0x00, sample := none, events := [] } }) ∧
      (∀ T, walk B = some T →
        exec (.attach B) s = .next { s with
          cont := Memory.ofBytes B, blk := T, att := true, bidx := 0, tl := none, fin := false,
          pol := .plus
          out := some { code := .ok, rdata := 0x00, sample := none, events := [] } }))

/-- R22, R61: the copy holds the bytes of the operand at addresses `0..n-1` and nothing elsewhere, in
its canonical form. -/
def Obligations.ContainerCopyReadsBack : Prop :=
  ∀ B : List Byte, (Memory.ofBytes B).wf = true ∧ (Memory.ofBytes B).length = B.length ∧
    (Memory.ofBytes B).bytes = B ∧ ∀ a : Nat, (Memory.ofBytes B).read a = B[a]?

/-- R62: a length field is little endian. -/
def Obligations.LengthFieldIsLittleEndian : Prop :=
  ∀ (m : Memory) (p : Nat) (lo hi : Byte), m.read p = some lo → m.read (p + 1) = some hi →
    ∃ L : BitVec 16, m.read16 p = some L ∧ L.toNat = lo.toNat + 256 * hi.toNat

/-- R121 as a property of the bytes: the walk accepts exactly the concatenations of blocks whose
payload regions hold 1 to 65535 bytes behind their length, and answers where the blocks start. -/
def Obligations.WalkAcceptsExactlyTilings : Prop :=
  ∀ (B : List Byte) (T : List Nat),
    walk B = some T ↔
      ∃ payloads : List (List Byte),
        (∀ P ∈ payloads, 1 ≤ P.length ∧ P.length ≤ 65535) ∧ B = tile payloads ∧
        T = starts 0 payloads

/-- R125: the derived views of an attached container. -/
def Obligations.ContainerViewsAgree : Prop :=
  ∀ s : State, s.Inv →
    s.blockCount = s.nblk ∧
    s.totalLength = s.clen ∧ s.clen = (s.blk.map fun p => 2 + lenAt s.cont p).sum ∧
    ∀ (i p : Nat), s.blk[i]? = some p →
      ∃ (L : BitVec 16) (flag : Byte), s.cont.read16 p = some L ∧ s.cont.read (p + 2) = some flag ∧
        s.blockAt i = some (flag, p + 2, L.toNat) ∧ 1 ≤ L.toNat ∧ p + 2 + L.toNat ≤ s.clen

/-! ### The timeline -/

/-- R140, R141: construction. -/
def Obligations.NewTimelineStartsBlock : Prop :=
  ∀ (c : Config) (m : Memory) (i p : Nat) (L : BitVec 16) (flag : Byte),
    c.wf = true → m.read16 p = some L → m.read (p + 2) = some flag →
      ∃ t, newTimeline c m i p = .ok t ∧ t.len = L ∧ t.base = p + 2 ∧
        (t.pausePend = true ↔ 0 < i) ∧
        t.leadRem.toNat = (if flag = 0x00 then c.leadNHdr else c.leadNData) ∧
        t.sync1Pend = true ∧ t.sync2Pend = true ∧ t.off = 0 ∧ t.bitx = 7 ∧ t.hc = 2 ∧ t.acc = 0

/-- The spec's inference in R140 (from R37, R141 and W4): the phase a new timeline starts in. -/
def Obligations.NewTimelinePhaseIsPauseOrLead : Prop :=
  ∀ (c : Config) (m : Memory) (i p : Nat) (t : Timeline),
    c.wf = true → newTimeline c m i p = .ok t → t.phase = (if 0 < i then .pause else .lead)

/-- R143: the interval threshold of each phase; in DATA it is read from bit `bitx` of byte
`base + off`, and COMPLETE has none. -/
def Obligations.IntervalDurationByPhase : Prop :=
  ∀ (c : Config) (m : Memory) (t : Timeline),
    (t.phase = .pause → t.dur c m = .ok c.pauseT) ∧ (t.phase = .lead → t.dur c m = .ok c.leadT) ∧
    (t.phase = .sync1 → t.dur c m = .ok c.sync1T) ∧ (t.phase = .sync2 → t.dur c m = .ok c.sync2T) ∧
    (t.phase = .data → ∀ b : Byte, m.read (t.base + t.off.toNat) = some b →
      t.dur c m = .ok (if b.getLsbD t.bitx.toNat = true then c.bit1T else c.bit0T)) ∧
    (t.phase = .complete → t.dur c m = .error .invariant)

/-- R144 to R149: one advance.  Short of the threshold only `acc` moves; at the threshold the
remainder is kept and the phase's event happens; the last clauses say which phase the event leads to
(the phase does not depend on `acc`). -/
def Obligations.AdvanceMakesOneEventAtThreshold : Prop :=
  ∀ (c : Config) (m : Memory) (t : Timeline) (d : Nat),
    t.intact = true → t.dur c m = .ok d →
    (t.acc + c.clkHz < d * c.srHz →
      t.advance c m = .ok ({ t with acc := t.acc + c.clkHz }, false)) ∧
    (d * c.srHz ≤ t.acc + c.clkHz →
      (t.phase = .pause → t.advance c m =
        .ok ({ t with acc := t.acc + c.clkHz - d * c.srHz, pausePend := false }, false)) ∧
      (t.phase = .lead → t.advance c m =
        .ok ({ t with acc := t.acc + c.clkHz - d * c.srHz, leadRem := t.leadRem - 1 }, true)) ∧
      (t.phase = .sync1 → t.advance c m =
        .ok ({ t with acc := t.acc + c.clkHz - d * c.srHz, sync1Pend := false }, true)) ∧
      (t.phase = .sync2 → t.advance c m =
        .ok ({ t with acc := t.acc + c.clkHz - d * c.srHz, sync2Pend := false }, true)) ∧
      (t.phase = .data → t.hc = 2 → t.advance c m =
        .ok ({ t with acc := t.acc + c.clkHz - d * c.srHz, hc := 1 }, true)) ∧
      (t.phase = .data → t.hc = 1 → t.bitx = 0 → t.advance c m =
        .ok ({ t with acc := t.acc + c.clkHz - d * c.srHz, hc := 2, bitx := 7, off := t.off + 1 },
          true)) ∧
      (t.phase = .data → t.hc = 1 → t.bitx ≠ 0 → t.advance c m =
        .ok ({ t with acc := t.acc + c.clkHz - d * c.srHz, hc := 2, bitx := t.bitx - 1 }, true))) ∧
    (t.phase = .pause → 0 < t.leadRem.toNat → ({ t with pausePend := false } : Timeline).phase = .lead) ∧
    (t.phase = .lead → t.leadRem.toNat = 1 → t.sync1Pend = true →
      ({ t with leadRem := t.leadRem - 1 } : Timeline).phase = .sync1) ∧
    (t.phase = .sync1 → t.sync2Pend = true → ({ t with sync1Pend := false } : Timeline).phase = .sync2) ∧
    (t.phase = .sync2 → t.off.toNat < t.len.toNat →
      ({ t with sync2Pend := false } : Timeline).phase = .data) ∧
    (t.phase = .data → t.off.toNat + 1 = t.len.toNat →
      ({ t with off := t.off + 1, bitx := 7, hc := 2 } : Timeline).phase = .complete)

/-- The inferences of 41_timeline.md section 4 (R152, R157) and of R35, R38: an advance never faults, and keeps the timeline in time and in order
until it completes; the phase stays or moves to the next one. -/
def Obligations.AdvanceKeepsTimelineInTime : Prop :=
  ∀ (c : Config) (m : Memory) (i p : Nat) (t : Timeline),
    c.wf = true → m.wf = true → t.Inv c m i p →
      ∃ t' flip, t.advance c m = .ok (t', flip) ∧
        (t'.phase ≠ .complete → t'.Inv c m i p) ∧
        (t'.phase.rank = t.phase.rank ∨ t'.phase.rank = t.phase.rank + 1)

/-- The spec's inference R153: after `n` SAMPLE steps of a timeline the finished intervals and the accumulator add up to
exactly `n` sample periods, and the accumulator is less than one interval. -/
def Obligations.TimelineTimeIsExact : Prop :=
  ∀ (c : Config) (m : Memory) (i p n k : Nat) (t0 t : Timeline),
    c.wf = true → m.wf = true → newTimeline c m i p = .ok t0 → 0 < t0.len.toNat →
    p + 2 + t0.len.toNat ≤ m.length → advanceN c m n t0 = .ok (t, k) →
      t.elapsed c m i * c.srHz + t.acc = n * c.clkHz ∧
      (∀ d, t.dur c m = .ok d → n * c.clkHz < (t.elapsed c m i + d) * c.srHz)

/-- The spec's inferences R154, R155: a timeline becomes COMPLETE in SAMPLE step `S_i = ⌈T_i * SR_HZ / CLK_HZ⌉` and in none
before, and has then made `N + 2 + 16 L` flips. -/
def Obligations.BlockCompletesOnTime : Prop :=
  ∀ (c : Config) (m : Memory) (i p : Nat) (t0 : Timeline),
    c.wf = true → m.wf = true → newTimeline c m i p = .ok t0 → 0 < t0.len.toNat →
    p + 2 + t0.len.toNat ≤ m.length →
      (∃ t, advanceN c m (blockSamples c m i p t0.len.toNat) t0 =
          .ok (t, t0.leadRem.toNat + 2 + 16 * t0.len.toNat) ∧ t.phase = .complete) ∧
      (∀ n, n < blockSamples c m i p t0.len.toNat →
        ∃ t k, advanceN c m n t0 = .ok (t, k) ∧ t.phase ≠ .complete)

/-- The spec's inference R151: both half-cycles of a bit last as long as the bit says, long is heard as 1, and the bits of
a byte are played 7 down to 0, two half-cycles each, before the next byte. -/
def Obligations.PlayedBitsAreHeardMsbFirst : Prop :=
  (∀ (c : Config) (m : Memory) (t : Timeline) (b : Byte) (d : Nat),
    c.wf = true → t.phase = .data → m.read (t.base + t.off.toNat) = some b → t.dur c m = .ok d →
      heardBit c d = b.getLsbD t.bitx.toNat) ∧
  (∀ (t : Timeline) (j : Nat), t.bitx = 7 → t.hc = 2 → j < 16 →
    (Timeline.dataEvent^[j] t).off = t.off ∧ (Timeline.dataEvent^[j] t).bitx.toNat = 7 - j / 2 ∧
    (Timeline.dataEvent^[j] t).hc.toNat = 2 - j % 2) ∧
  (∀ t : Timeline, t.bitx = 7 → t.hc = 2 →
    Timeline.dataEvent^[16] t = { t with off := t.off + 1 })

/-! ### SAMPLE -/

/-- R181: with no container SAMPLE returns `+0.0` and feeds the border sampler sign 0 and the idle
pair. -/
def Obligations.SampleIsSilentWithoutContainer : Prop :=
  ∀ s : State, s.att = false → exec .sample s = .next { s with
    border := (s.border.record s.cfg s.fin .zero s.cfg.colIdle s.cfg.colIdle).1
    filt := Binary64.filterStep s.filt (.finite false 0 0)
    out := some
      { code := .ok
        rdata := 0x00
        sample := some
          { x := .finite false 0 0
            y := Binary64.filterStep s.filt (.finite false 0 0)
            channels := List.replicate s.cfg.nCh (Binary64.filterStep s.filt (.finite false 0 0)) }
        events := (s.border.record s.cfg s.fin .zero s.cfg.colIdle s.cfg.colIdle).2 } }

/-- R182: after playback has finished SAMPLE returns the frozen level and emits nothing, and the border
sampler goes on with the idle pair. -/
def Obligations.SampleHoldsLevelWhenFinished : Prop :=
  ∀ (s : State) (x : Binary64) (sgn : Sign), s.att = true → s.fin = true →
    (s.pol = .plus → x = s.cfg.level ∧ sgn = .plus) →
    (s.pol = .minus → x = s.cfg.level.neg ∧ sgn = .minus) →
    exec .sample s = .next { s with
      border := (s.border.record s.cfg true sgn s.cfg.colIdle s.cfg.colIdle).1
      filt := Binary64.filterStep s.filt x
      out := some
        { code := .ok
          rdata := 0x00
          sample := some
            { x := x
              y := Binary64.filterStep s.filt x
              channels := List.replicate s.cfg.nCh (Binary64.filterStep s.filt x) }
          events := [] } }

/-- R183, R216: with no block left SAMPLE finishes: `fin` is set, DONE and the terminal FRAME of
`N_STORED` idle entries are emitted, `fr` is set, and then the sample is that of the finished path. -/
def Obligations.SampleFinishesAfterLastBlock : Prop :=
  ∀ (s : State) (x : Binary64) (sgn : Sign), s.att = true → s.fin = false → s.tl = none →
    s.nblk ≤ s.bidx →
    (s.pol = .plus → x = s.cfg.level ∧ sgn = .plus) →
    (s.pol = .minus → x = s.cfg.level.neg ∧ sgn = .minus) →
    exec .sample s = .next { s with
      fin := true
      border := (Border.record s.cfg true sgn s.cfg.colIdle s.cfg.colIdle
        { s.border with
          buf := List.replicate s.cfg.nStored s.cfg.colIdle
          snap := List.replicate s.cfg.nStored s.cfg.colIdle
          fr := true }).1
      filt := Binary64.filterStep s.filt x
      out := some
        { code := .ok
          rdata := 0x00
          sample := some
            { x := x
              y := Binary64.filterStep s.filt x
              channels := List.replicate s.cfg.nCh (Binary64.filterStep s.filt x) }
          events := [.done, .frame (List.replicate s.cfg.nStored s.cfg.colIdle)] } }

/-- R183: with a block left and no timeline, SAMPLE builds the timeline of block `bidx` and goes on in
the same step, as it does with that timeline present. -/
def Obligations.SampleStartsNextBlock : Prop :=
  ∀ (s : State) (p : Nat) (t : Timeline), s.att = true → s.fin = false → s.tl = none →
    s.blk[s.bidx]? = some p → newTimeline s.cfg s.cont s.bidx p = .ok t →
    ∀ t' flip, t.advance s.cfg s.cont = .ok (t', flip) →
      ∃ u, exec .sample s = .next u ∧ exec .sample { s with tl := some t } = .next u

/-- R184 to R187, R189: with a timeline present SAMPLE advances it; a flip negates the polarity; the
border sampler gets the polarity before the flip and the tag of the phase before the advance; a
COMPLETE timeline is discarded and `bidx` moves on; the level after the flip is returned, filtered
and copied to every channel. -/
def Obligations.SampleAdvancesTimeline : Prop :=
  ∀ (s : State) (t t' : Timeline) (flip : Bool) (pol' : Polarity) (x : Binary64) (sgn : Sign)
    (lo hi : Colour),
    s.att = true → s.fin = false → s.tl = some t → t.advance s.cfg s.cont = .ok (t', flip) →
    (pol' = if flip then (match s.pol with | .plus => .minus | .minus => .plus) else s.pol) →
    (x = match pol' with | .plus => s.cfg.level | .minus => s.cfg.level.neg) →
    (sgn = match s.pol with | .plus => .plus | .minus => .minus) →
    (t.phase = .pause → lo = s.cfg.colIdle ∧ hi = s.cfg.colIdle) →
    (t.phase = .lead ∨ t.phase = .sync1 ∨ t.phase = .sync2 →
      lo = s.cfg.colLeadLo ∧ hi = s.cfg.colLeadHi) →
    (t.phase = .data → lo = s.cfg.colDataLo ∧ hi = s.cfg.colDataHi) →
    exec .sample s = .next { s with
      tl := if t'.phase = .complete then none else some t'
      bidx := if t'.phase = .complete then s.bidx + 1 else s.bidx
      pol := pol'
      border := (s.border.record s.cfg false sgn lo hi).1
      filt := Binary64.filterStep s.filt x
      out := some
        { code := .ok
          rdata := 0x00
          sample := some
            { x := x
              y := Binary64.filterStep s.filt x
              channels := List.replicate s.cfg.nCh (Binary64.filterStep s.filt x) }
          events := (s.border.record s.cfg false sgn lo hi).2 } }

/-- R180, R230 ("SAMPLE cannot be rejected"): from every state that meets the invariant SAMPLE completes, responds OK with a sample, and
reaches a state that meets the invariant. -/
def Obligations.SampleAlwaysResponds : Prop :=
  ∀ s : State, s.Inv → ∃ t r v, exec .sample s = .next t ∧ t.out = some r ∧ r.code = .ok ∧
    r.rdata = 0x00 ∧ r.sample = some v ∧ t.filt = v.y ∧ v.channels = List.replicate s.cfg.nCh v.y ∧
    t.Inv

/-- R61, R143, R236: where SAMPLE stops.  A timeline that is COMPLETE, or whose counters are out of
range, raises INVARIANT; a data byte outside the container raises OOB_READ.  R236 does not say where the
counters are checked: that `hc` and `off` are checked at the start of every advance, in every phase, is
the model's choice (DESIGN CHOICE, log 14). -/
def Obligations.SampleFaultsOnViolations : Prop :=
  ∀ (s : State) (t : Timeline), s.att = true → s.fin = false → s.tl = some t →
    (t.phase = .complete → exec .sample s = .fault .invariant) ∧
    (t.hc ≠ 1 → t.hc ≠ 2 → exec .sample s = .fault .invariant) ∧
    (t.len.toNat < t.off.toNat → exec .sample s = .fault .invariant) ∧
    (t.phase = .data → t.hc = 1 ∨ t.hc = 2 → s.cont.read (t.base + t.off.toNat) = none →
      exec .sample s = .fault .oobRead)

/-- The spec's inference R192: once finished, every later SAMPLE returns the same level, emits nothing, and leaves `fr`,
`snap`, `bidx`, `tl` and `pol` alone. -/
def Obligations.FinishedOutputIsFrozen : Prop :=
  ∀ (s : State) (n : Nat), s.att = true → s.fin = true →
    ∃ t, sampleN n s = some t ∧ t.att = true ∧ t.fin = true ∧ t.bidx = s.bidx ∧ t.tl = s.tl ∧
      t.pol = s.pol ∧ t.border.fr = s.border.fr ∧ t.border.snap = s.border.snap ∧
      (0 < n → ∃ r v, t.out = some r ∧ r.events = [] ∧ r.sample = some v ∧
        v.x = (match s.pol with | .plus => s.cfg.level | .minus => s.cfg.level.neg))

/-- The spec's inference R193: from an accepted container at its start, playback takes exactly the sum of the block
durations in samples: before that many SAMPLEs it is not finished, then every block has been played,
and the next SAMPLE emits DONE. -/
def Obligations.PlaybackTakesItsClosedForm : Prop :=
  ∀ (s : State), s.Inv → s.att = true → s.fin = false → s.tl = none → s.bidx = 0 →
    (∀ n, n ≤ playSamplesFrom s.cfg s.cont 0 s.blk → ∃ t, sampleN n s = some t ∧ t.fin = false) ∧
    (∃ t, sampleN (playSamplesFrom s.cfg s.cont 0 s.blk) s = some t ∧ t.bidx = s.nblk ∧ t.tl = none) ∧
    (∃ t r, sampleN (playSamplesFrom s.cfg s.cont 0 s.blk + 1) s = some t ∧ t.fin = true ∧
      t.out = some r ∧ r.events = [.done, .frame (List.replicate s.cfg.nStored s.cfg.colIdle)])

/-! ### The filter -/

/-- R9, R188: `fl` rounds to the nearest binary64 value, ties to even: no binary64 value is nearer to
`n / 2^k` units, and one that is as near leaves an even significand. -/
def Obligations.RoundingIsNearestEven : Prop :=
  ∀ (neg s : Bool) (n k m e m' e' : Nat), Binary64.round neg n k = .finite s m e →
    Binary64.valid (.finite neg m' e') = true →
      s = neg ∧ Binary64.valid (.finite s m e) = true ∧
      ((m * 2 ^ e * 2 ^ k : Nat) - (n : Nat) : Int).natAbs ≤
        ((m' * 2 ^ e' * 2 ^ k : Nat) - (n : Nat) : Int).natAbs ∧
      (((m * 2 ^ e * 2 ^ k : Nat) - (n : Nat) : Int).natAbs =
          ((m' * 2 ^ e' * 2 ^ k : Nat) - (n : Nat) : Int).natAbs →
        m * 2 ^ e ≠ m' * 2 ^ e' → m % 2 = 0)

/-- The spec's inference R269: with `LEVEL` 0.1 and `|filt| ≤ LEVEL` before the step, the audio value has the sign of the
level and again `|y| ≤ LEVEL`. -/
def Obligations.FilterKeepsSignAndBound : Prop :=
  ∀ (sy sx : Bool) (my ey : Nat), Binary64.valid (.finite sy my ey) = true →
    my * 2 ^ ey ≤ 0x1999999999999A * 2 ^ 1018 →
    ∃ m e, Binary64.filterStep (.finite sy my ey) (.finite sx 0x1999999999999A 1018) =
        .finite sx m e ∧ 0 < m ∧ m * 2 ^ e ≤ 0x1999999999999A * 2 ^ 1018

/-- The values of vector V-F1 as bit patterns: its eight steps from `+0.0` (five with `+LEVEL`, three
with `-LEVEL`), the four decay steps from `LEVEL` with `+0.0`, and the fixed point with its two
products. -/
def Obligations.FilterMeetsVectors : Prop :=
  Binary64.filterStep (Binary64.ofBits 0x0000000000000000) (Binary64.ofBits 0x3FB999999999999A) =
    Binary64.ofBits 0x3FB3333333333334 ∧
  Binary64.filterStep (Binary64.ofBits 0x3FB3333333333334) (Binary64.ofBits 0x3FB999999999999A) =
    Binary64.ofBits 0x3FB8000000000001 ∧
  Binary64.filterStep (Binary64.ofBits 0x3FB8000000000001) (Binary64.ofBits 0x3FB999999999999A) =
    Binary64.ofBits 0x3FB9333333333334 ∧
  Binary64.filterStep (Binary64.ofBits 0x3FB9333333333334) (Binary64.ofBits 0x3FB999999999999A) =
    Binary64.ofBits 0x3FB9800000000001 ∧
  Binary64.filterStep (Binary64.ofBits 0x3FB9800000000001) (Binary64.ofBits 0x3FB999999999999A) =
    Binary64.ofBits 0x3FB9933333333334 ∧
  Binary64.filterStep (Binary64.ofBits 0x3FB9933333333334) (Binary64.ofBits 0xBFB999999999999A) =
    Binary64.ofBits 0xBFA99CCCCCCCCCCE ∧
  Binary64.filterStep (Binary64.ofBits 0xBFA99CCCCCCCCCCE) (Binary64.ofBits 0xBFB999999999999A) =
    Binary64.ofBits 0xBFB666CCCCCCCCCE ∧
  Binary64.filterStep (Binary64.ofBits 0xBFB666CCCCCCCCCE) (Binary64.ofBits 0xBFB999999999999A) =
    Binary64.ofBits 0xBFB8CCE666666668 ∧
  Binary64.filterStep (Binary64.ofBits 0x3FB999999999999A) (Binary64.ofBits 0x0000000000000000) =
    Binary64.ofBits 0x3F9999999999999A ∧
  Binary64.filterStep (Binary64.ofBits 0x3F9999999999999A) (Binary64.ofBits 0x0000000000000000) =
    Binary64.ofBits 0x3F7999999999999A ∧
  Binary64.filterStep (Binary64.ofBits 0x3F7999999999999A) (Binary64.ofBits 0x0000000000000000) =
    Binary64.ofBits 0x3F5999999999999A ∧
  Binary64.filterStep (Binary64.ofBits 0x3F5999999999999A) (Binary64.ofBits 0x0000000000000000) =
    Binary64.ofBits 0x3F3999999999999A ∧
  Binary64.filterStep (Binary64.ofBits 0x3FB999999999999A) (Binary64.ofBits 0x3FB999999999999A) =
    Binary64.ofBits 0x3FB999999999999A ∧
  Binary64.mul (Binary64.ofBits 0x3FB999999999999A) Binary64.threeQuarters = Binary64.ofBits 0x3FB3333333333334 ∧
  Binary64.mul (Binary64.ofBits 0x3FB999999999999A) Binary64.quarter = Binary64.ofBits 0x3F9999999999999A

/-! ### The border sampler -/

/-- R210 to R215: one `record`, for every scanline `0..N_LINES-1` (0..311 with R7's value). -/
def Obligations.BorderRecordCommitsOneLine : Prop :=
  ∀ (c : Config) (fin : Bool) (sgn : Sign) (lo hi col : Colour) (b : Border),
    c.wf = true → b.line.toNat < c.nLines → b.buf.length = c.nStored →
    (sgn = .plus → col = hi) → (sgn ≠ .plus → col = lo) →
    (b.bacc + c.clkHz ≤ c.lineT * c.srHz →
      b.record c fin sgn lo hi = ({ b with bacc := b.bacc + c.clkHz }, [])) ∧
    (c.lineT * c.srHz < b.bacc + c.clkHz →
      ∃ b' ev, b.record c fin sgn lo hi = (b', ev) ∧
        b'.bacc = b.bacc + c.clkHz - c.lineT * c.srHz ∧ b'.buf.length = c.nStored ∧
        (∀ j, j < c.nStored → b'.buf[j]? = if j = b.line.toNat then some col else b.buf[j]?) ∧
        (b.line.toNat + 1 < c.nLines →
          b'.line.toNat = b.line.toNat + 1 ∧ b'.fr = b.fr ∧ b'.snap = b.snap ∧ ev = []) ∧
        (b.line.toNat + 1 = c.nLines → b'.line = 0 ∧
          (fin = true → b'.fr = b.fr ∧ b'.snap = b.snap ∧ ev = []) ∧
          (fin = false → b'.fr = true ∧ b'.snap = b'.buf ∧ ev = [.frame b'.buf])))

/-- The spec's inference R219: counted from a fresh sampler, `n` records have made `⌈n * CLK_HZ / budget⌉ - 1` commits,
whatever they were fed: the scanline counter and the accumulator are those closed forms. -/
def Obligations.CommitTimingIsExact : Prop :=
  ∀ (c : Config) (fin : Bool) (feeds : List (Sign × Colour × Colour)) (b : Border),
    c.wf = true → b.line = 0 → b.bacc = 0 →
      ((Border.recordAll c fin feeds b).line.toNat =
        (feeds.length * c.clkHz - 1) / (c.lineT * c.srHz) % c.nLines) ∧
      (Border.recordAll c fin feeds b).bacc +
        (feeds.length * c.clkHz - 1) / (c.lineT * c.srHz) * (c.lineT * c.srHz) =
          feeds.length * c.clkHz

/-! ### Whole-machine rules -/

/-- Every step keeps the invariant. -/
def Obligations.EveryStepKeepsInvariant : Prop :=
  ∀ s t : State, s.Inv → step s = .next t → t.Inv

/-- What R236 says of violations ("no violation is reachable"): from a state that meets the invariant every step answers a
next state, whatever the host gives. -/
def Obligations.NoStepStopsFromInvariant : Prop :=
  ∀ s : State, s.Inv → ∃ t, step s = .next t

/-- R97 and the spec's inference R241: the event lists a command can emit; a FRAME carries `snap` as the step left it; DONE
comes with the step that sets `fin`; every command responds. -/
def Obligations.EventListsOfAStep : Prop :=
  ∀ (i : Instr) (s t : State), exec i s = .next t →
    ∃ r, t.out = some r ∧ (i ≠ .sample → r.events = []) ∧
      (r.events = [] ∨ r.events = [.frame t.border.snap] ∨ r.events = [.done, .frame t.border.snap]) ∧
      (.done ∈ r.events ↔ s.fin = false ∧ t.fin = true)

/-- The spec's inference R72: `snap` changes only in a step that emits FRAME. -/
def Obligations.SnapChangesOnlyWithFrame : Prop :=
  ∀ (i : Instr) (s t : State), exec i s = .next t → t.border.snap ≠ s.border.snap →
    ∃ r, t.out = some r ∧ .frame t.border.snap ∈ r.events ∧ t.border.fr = true

/-- R28, R40, R41, R69 and the spec's inference R46: only SAMPLE moves time.  NOP, ACK_FRAME, READ_STATUS and READ_SNAP leave
the playback position, the container, the filter and all of the border sampler but `fr` (which only
ACK_FRAME changes); ATTACH and DETACH leave the filter and the border sampler. -/
def Obligations.OnlySampleMovesTime : Prop :=
  ∀ (i : Instr) (s t : State), i ≠ .sample → exec i s = .next t →
    t.filt = s.filt ∧ t.border.buf = s.border.buf ∧ t.border.line = s.border.line ∧
    t.border.bacc = s.border.bacc ∧ t.border.snap = s.border.snap ∧
    (i ≠ .ackFrame → t.border.fr = s.border.fr) ∧
    ((∀ B, i ≠ .attach B) → i ≠ .detach →
      t.att = s.att ∧ t.blk = s.blk ∧ t.bidx = s.bidx ∧ t.tl = s.tl ∧ t.fin = s.fin ∧
      t.pol = s.pol ∧ ∀ a : Nat, t.cont.read a = s.cont.read a)

/-- R69, R26: the frame of SAMPLE: the container, its table and the attachment stay, every address
reads as before, and `fin` is never cleared. -/
def Obligations.SampleLeavesContainer : Prop :=
  ∀ s t : State, exec .sample s = .next t →
    t.att = s.att ∧ t.blk = s.blk ∧ t.inputs = s.inputs ∧ (s.fin = true → t.fin = true) ∧
    ∀ a : Nat, t.cont.read a = s.cont.read a

/-- R7, R49: no step changes the configuration (log 1), and no step but the reset input clears a
mark. -/
def Obligations.ConfigurationAndMarksPersist : Prop :=
  ∀ s t : State, step s = .next t →
    t.cfg = s.cfg ∧
    ((∀ rest, s.inputs ≠ .reset :: rest) →
      (s.refusedSeen = true → t.refusedSeen = true) ∧ t.faulted = s.faulted)

/-- R8, R235: a configuration that fails one of W1 to W6 is no machine (log 7; the colours of W5
are in 0..7 by their type). -/
def Obligations.IllFormedConfigurationIsRefused : Prop :=
  ∀ s : State,
    (s.cfg.pauseT = 0 ∨ s.cfg.leadT = 0 ∨ s.cfg.sync1T = 0 ∨ s.cfg.sync2T = 0 ∨ s.cfg.bit0T = 0 ∨
      s.cfg.bit1T = 0 ∨ s.cfg.lineT = 0 ∨ s.cfg.clkHz = 0 ∨ s.cfg.srHz = 0 ∨
      s.cfg.pauseT * s.cfg.srHz < s.cfg.clkHz ∨ s.cfg.leadT * s.cfg.srHz < s.cfg.clkHz ∨
      s.cfg.sync1T * s.cfg.srHz < s.cfg.clkHz ∨ s.cfg.sync2T * s.cfg.srHz < s.cfg.clkHz ∨
      s.cfg.bit0T * s.cfg.srHz < s.cfg.clkHz ∨ s.cfg.bit1T * s.cfg.srHz < s.cfg.clkHz ∨
      s.cfg.lineT * s.cfg.srHz < s.cfg.clkHz ∨
      s.cfg.leadNHdr = 0 ∨ 65535 < s.cfg.leadNHdr ∨ s.cfg.leadNData = 0 ∨ 65535 < s.cfg.leadNData ∨
      s.cfg.nLines < s.cfg.nStored ∨ s.cfg.bit1T ≤ s.cfg.bit0T) →
    step s = .refused .configRefused

/-- R10, R236 as the model holds them (log 13): no step but the reset input leaves the fault state, and
a step that faults sets the mark. -/
def Obligations.FaultStateIsFinal : Prop :=
  ∀ s : State, s.cfg.wf = true →
    (s.faulted = true → (∀ rest, s.inputs ≠ .reset :: rest) →
      step s = .fault .faultState ∧ s.after = s) ∧
    (∀ f, step s = .fault f → s.after = { s with faulted := true })

/-- The model's reading of R20 and R247 (DESIGN CHOICE, log 9): with no input pending the block holds
its state. -/
def Obligations.IdleStepHoldsState : Prop :=
  ∀ s : State, s.cfg.wf = true → s.faulted = false → s.inputs = [] → step s = .next s

/-! ### The builder -/

/-- What ATTACHBLK builds (R104) is a container (R121) with one entry for each block. -/
def Obligations.BuiltContainerIsAccepted : Prop :=
  ∀ blocks : List (Byte × List Byte), (∀ b ∈ blocks, blockFits b.2 = true) →
    ∃ T, walk (containerBytes blocks) = some T ∧ T.length = blocks.length

/-- R65: the checksum detects a single-bit error in any covered byte: flipping bit `k` of one byte
flips bit `k` of the checksum. -/
def Obligations.ChecksumDetectsOneBit : Prop :=
  (∀ (flag : Byte) (before after : List Byte) (b : Byte) (k : Nat), k < 8 →
    checksum flag (before ++ (b ^^^ BitVec.twoPow 8 k) :: after) =
      checksum flag (before ++ b :: after) ^^^ BitVec.twoPow 8 k ∧
    checksum flag (before ++ (b ^^^ BitVec.twoPow 8 k) :: after) ≠
      checksum flag (before ++ b :: after)) ∧
  (∀ (flag : Byte) (data : List Byte) (k : Nat), k < 8 →
    checksum (flag ^^^ BitVec.twoPow 8 k) data ≠ checksum flag data)
end

