-- ==== Sys2Proof/Laws/State.lean ====
section
/-! SUPPORT. One lemma per field and named update of State, true by rfl and in the simp set, so that no
proof unfolds a record update. -/

namespace Sys2Proof.Machine

variable (s : State)

/-! ### `respond` -/

@[simp] theorem State.respond_cfg (code : RespCode) (d : Byte) : (s.respond code d).cfg = s.cfg := rfl
@[simp] theorem State.respond_att (code : RespCode) (d : Byte) : (s.respond code d).att = s.att := rfl
@[simp] theorem State.respond_cont (code : RespCode) (d : Byte) : (s.respond code d).cont = s.cont := rfl
@[simp] theorem State.respond_blk (code : RespCode) (d : Byte) : (s.respond code d).blk = s.blk := rfl
@[simp] theorem State.respond_bidx (code : RespCode) (d : Byte) : (s.respond code d).bidx = s.bidx := rfl
@[simp] theorem State.respond_tl (code : RespCode) (d : Byte) : (s.respond code d).tl = s.tl := rfl
@[simp] theorem State.respond_fin (code : RespCode) (d : Byte) : (s.respond code d).fin = s.fin := rfl
@[simp] theorem State.respond_pol (code : RespCode) (d : Byte) : (s.respond code d).pol = s.pol := rfl
@[simp] theorem State.respond_filt (code : RespCode) (d : Byte) : (s.respond code d).filt = s.filt := rfl
@[simp] theorem State.respond_border (code : RespCode) (d : Byte) : (s.respond code d).border = s.border := rfl
@[simp] theorem State.respond_faulted (code : RespCode) (d : Byte) : (s.respond code d).faulted = s.faulted := rfl
@[simp] theorem State.respond_refusedSeen (code : RespCode) (d : Byte) : (s.respond code d).refusedSeen = s.refusedSeen := rfl
@[simp] theorem State.respond_out (code : RespCode) (d : Byte) : (s.respond code d).out = some { code := code, rdata := d, sample := none, events := [] } := rfl
@[simp] theorem State.respond_inputs (code : RespCode) (d : Byte) : (s.respond code d).inputs = s.inputs := rfl

/-! ### `refuse` -/

@[simp] theorem State.refuse_cfg : (s.refuse).cfg = s.cfg := rfl
@[simp] theorem State.refuse_att : (s.refuse).att = s.att := rfl
@[simp] theorem State.refuse_cont : (s.refuse).cont = s.cont := rfl
@[simp] theorem State.refuse_blk : (s.refuse).blk = s.blk := rfl
@[simp] theorem State.refuse_bidx : (s.refuse).bidx = s.bidx := rfl
@[simp] theorem State.refuse_tl : (s.refuse).tl = s.tl := rfl
@[simp] theorem State.refuse_fin : (s.refuse).fin = s.fin := rfl
@[simp] theorem State.refuse_pol : (s.refuse).pol = s.pol := rfl
@[simp] theorem State.refuse_filt : (s.refuse).filt = s.filt := rfl
@[simp] theorem State.refuse_border : (s.refuse).border = s.border := rfl
@[simp] theorem State.refuse_faulted : (s.refuse).faulted = s.faulted := rfl
@[simp] theorem State.refuse_refusedSeen : (s.refuse).refusedSeen = true := rfl
@[simp] theorem State.refuse_out : (s.refuse).out = some { code := .refused, rdata := 0x00, sample := none, events := [] } := rfl
@[simp] theorem State.refuse_inputs : (s.refuse).inputs = s.inputs := rfl

/-! ### `setContainer` -/

@[simp] theorem State.setContainer_cfg (a : Bool) (m : Memory) (T : List Nat) : (s.setContainer a m T).cfg = s.cfg := rfl
@[simp] theorem State.setContainer_att (a : Bool) (m : Memory) (T : List Nat) : (s.setContainer a m T).att = a := rfl
@[simp] theorem State.setContainer_cont (a : Bool) (m : Memory) (T : List Nat) : (s.setContainer a m T).cont = m := rfl
@[simp] theorem State.setContainer_blk (a : Bool) (m : Memory) (T : List Nat) : (s.setContainer a m T).blk = T := rfl
@[simp] theorem State.setContainer_bidx (a : Bool) (m : Memory) (T : List Nat) : (s.setContainer a m T).bidx = s.bidx := rfl
@[simp] theorem State.setContainer_tl (a : Bool) (m : Memory) (T : List Nat) : (s.setContainer a m T).tl = s.tl := rfl
@[simp] theorem State.setContainer_fin (a : Bool) (m : Memory) (T : List Nat) : (s.setContainer a m T).fin = s.fin := rfl
@[simp] theorem State.setContainer_pol (a : Bool) (m : Memory) (T : List Nat) : (s.setContainer a m T).pol = s.pol := rfl
@[simp] theorem State.setContainer_filt (a : Bool) (m : Memory) (T : List Nat) : (s.setContainer a m T).filt = s.filt := rfl
@[simp] theorem State.setContainer_border (a : Bool) (m : Memory) (T : List Nat) : (s.setContainer a m T).border = s.border := rfl
@[simp] theorem State.setContainer_faulted (a : Bool) (m : Memory) (T : List Nat) : (s.setContainer a m T).faulted = s.faulted := rfl
@[simp] theorem State.setContainer_refusedSeen (a : Bool) (m : Memory) (T : List Nat) : (s.setContainer a m T).refusedSeen = s.refusedSeen := rfl
@[simp] theorem State.setContainer_out (a : Bool) (m : Memory) (T : List Nat) : (s.setContainer a m T).out = s.out := rfl
@[simp] theorem State.setContainer_inputs (a : Bool) (m : Memory) (T : List Nat) : (s.setContainer a m T).inputs = s.inputs := rfl

/-! ### `restart` -/

@[simp] theorem State.restart_cfg : (s.restart).cfg = s.cfg := rfl
@[simp] theorem State.restart_att : (s.restart).att = s.att := rfl
@[simp] theorem State.restart_cont : (s.restart).cont = s.cont := rfl
@[simp] theorem State.restart_blk : (s.restart).blk = s.blk := rfl
@[simp] theorem State.restart_bidx : (s.restart).bidx = 0 := rfl
@[simp] theorem State.restart_tl : (s.restart).tl = none := rfl
@[simp] theorem State.restart_fin : (s.restart).fin = false := rfl
@[simp] theorem State.restart_pol : (s.restart).pol = .plus := rfl
@[simp] theorem State.restart_filt : (s.restart).filt = s.filt := rfl
@[simp] theorem State.restart_border : (s.restart).border = s.border := rfl
@[simp] theorem State.restart_faulted : (s.restart).faulted = s.faulted := rfl
@[simp] theorem State.restart_refusedSeen : (s.restart).refusedSeen = s.refusedSeen := rfl
@[simp] theorem State.restart_out : (s.restart).out = s.out := rfl
@[simp] theorem State.restart_inputs : (s.restart).inputs = s.inputs := rfl

/-! ### `setPlayback` -/

@[simp] theorem State.setPlayback_cfg (t : Timeline) (p : Polarity) : (s.setPlayback t p).cfg = s.cfg := rfl
@[simp] theorem State.setPlayback_att (t : Timeline) (p : Polarity) : (s.setPlayback t p).att = s.att := rfl
@[simp] theorem State.setPlayback_cont (t : Timeline) (p : Polarity) : (s.setPlayback t p).cont = s.cont := rfl
@[simp] theorem State.setPlayback_blk (t : Timeline) (p : Polarity) : (s.setPlayback t p).blk = s.blk := rfl
@[simp] theorem State.setPlayback_bidx (t : Timeline) (p : Polarity) : (s.setPlayback t p).bidx = s.bidx := rfl
@[simp] theorem State.setPlayback_tl (t : Timeline) (p : Polarity) : (s.setPlayback t p).tl = some t := rfl
@[simp] theorem State.setPlayback_fin (t : Timeline) (p : Polarity) : (s.setPlayback t p).fin = s.fin := rfl
@[simp] theorem State.setPlayback_pol (t : Timeline) (p : Polarity) : (s.setPlayback t p).pol = p := rfl
@[simp] theorem State.setPlayback_filt (t : Timeline) (p : Polarity) : (s.setPlayback t p).filt = s.filt := rfl
@[simp] theorem State.setPlayback_border (t : Timeline) (p : Polarity) : (s.setPlayback t p).border = s.border := rfl
@[simp] theorem State.setPlayback_faulted (t : Timeline) (p : Polarity) : (s.setPlayback t p).faulted = s.faulted := rfl
@[simp] theorem State.setPlayback_refusedSeen (t : Timeline) (p : Polarity) : (s.setPlayback t p).refusedSeen = s.refusedSeen := rfl
@[simp] theorem State.setPlayback_out (t : Timeline) (p : Polarity) : (s.setPlayback t p).out = s.out := rfl
@[simp] theorem State.setPlayback_inputs (t : Timeline) (p : Polarity) : (s.setPlayback t p).inputs = s.inputs := rfl

/-! ### `setBorder` -/

@[simp] theorem State.setBorder_cfg (b : Border) : (s.setBorder b).cfg = s.cfg := rfl
@[simp] theorem State.setBorder_att (b : Border) : (s.setBorder b).att = s.att := rfl
@[simp] theorem State.setBorder_cont (b : Border) : (s.setBorder b).cont = s.cont := rfl
@[simp] theorem State.setBorder_blk (b : Border) : (s.setBorder b).blk = s.blk := rfl
@[simp] theorem State.setBorder_bidx (b : Border) : (s.setBorder b).bidx = s.bidx := rfl
@[simp] theorem State.setBorder_tl (b : Border) : (s.setBorder b).tl = s.tl := rfl
@[simp] theorem State.setBorder_fin (b : Border) : (s.setBorder b).fin = s.fin := rfl
@[simp] theorem State.setBorder_pol (b : Border) : (s.setBorder b).pol = s.pol := rfl
@[simp] theorem State.setBorder_filt (b : Border) : (s.setBorder b).filt = s.filt := rfl
@[simp] theorem State.setBorder_border (b : Border) : (s.setBorder b).border = b := rfl
@[simp] theorem State.setBorder_faulted (b : Border) : (s.setBorder b).faulted = s.faulted := rfl
@[simp] theorem State.setBorder_refusedSeen (b : Border) : (s.setBorder b).refusedSeen = s.refusedSeen := rfl
@[simp] theorem State.setBorder_out (b : Border) : (s.setBorder b).out = s.out := rfl
@[simp] theorem State.setBorder_inputs (b : Border) : (s.setBorder b).inputs = s.inputs := rfl

/-! ### `endBlock` -/

@[simp] theorem State.endBlock_cfg : (s.endBlock).cfg = s.cfg := rfl
@[simp] theorem State.endBlock_att : (s.endBlock).att = s.att := rfl
@[simp] theorem State.endBlock_cont : (s.endBlock).cont = s.cont := rfl
@[simp] theorem State.endBlock_blk : (s.endBlock).blk = s.blk := rfl
@[simp] theorem State.endBlock_bidx : (s.endBlock).bidx = s.bidx + 1 := rfl
@[simp] theorem State.endBlock_tl : (s.endBlock).tl = none := rfl
@[simp] theorem State.endBlock_fin : (s.endBlock).fin = s.fin := rfl
@[simp] theorem State.endBlock_pol : (s.endBlock).pol = s.pol := rfl
@[simp] theorem State.endBlock_filt : (s.endBlock).filt = s.filt := rfl
@[simp] theorem State.endBlock_border : (s.endBlock).border = s.border := rfl
@[simp] theorem State.endBlock_faulted : (s.endBlock).faulted = s.faulted := rfl
@[simp] theorem State.endBlock_refusedSeen : (s.endBlock).refusedSeen = s.refusedSeen := rfl
@[simp] theorem State.endBlock_out : (s.endBlock).out = s.out := rfl
@[simp] theorem State.endBlock_inputs : (s.endBlock).inputs = s.inputs := rfl

/-! ### `setFin` -/

@[simp] theorem State.setFin_cfg : (s.setFin).cfg = s.cfg := rfl
@[simp] theorem State.setFin_att : (s.setFin).att = s.att := rfl
@[simp] theorem State.setFin_cont : (s.setFin).cont = s.cont := rfl
@[simp] theorem State.setFin_blk : (s.setFin).blk = s.blk := rfl
@[simp] theorem State.setFin_bidx : (s.setFin).bidx = s.bidx := rfl
@[simp] theorem State.setFin_tl : (s.setFin).tl = s.tl := rfl
@[simp] theorem State.setFin_fin : (s.setFin).fin = true := rfl
@[simp] theorem State.setFin_pol : (s.setFin).pol = s.pol := rfl
@[simp] theorem State.setFin_filt : (s.setFin).filt = s.filt := rfl
@[simp] theorem State.setFin_border : (s.setFin).border = s.border := rfl
@[simp] theorem State.setFin_faulted : (s.setFin).faulted = s.faulted := rfl
@[simp] theorem State.setFin_refusedSeen : (s.setFin).refusedSeen = s.refusedSeen := rfl
@[simp] theorem State.setFin_out : (s.setFin).out = s.out := rfl
@[simp] theorem State.setFin_inputs : (s.setFin).inputs = s.inputs := rfl

/-! ### `takeInput` -/

@[simp] theorem State.takeInput_cfg (rest : List Input) : (s.takeInput rest).cfg = s.cfg := rfl
@[simp] theorem State.takeInput_att (rest : List Input) : (s.takeInput rest).att = s.att := rfl
@[simp] theorem State.takeInput_cont (rest : List Input) : (s.takeInput rest).cont = s.cont := rfl
@[simp] theorem State.takeInput_blk (rest : List Input) : (s.takeInput rest).blk = s.blk := rfl
@[simp] theorem State.takeInput_bidx (rest : List Input) : (s.takeInput rest).bidx = s.bidx := rfl
@[simp] theorem State.takeInput_tl (rest : List Input) : (s.takeInput rest).tl = s.tl := rfl
@[simp] theorem State.takeInput_fin (rest : List Input) : (s.takeInput rest).fin = s.fin := rfl
@[simp] theorem State.takeInput_pol (rest : List Input) : (s.takeInput rest).pol = s.pol := rfl
@[simp] theorem State.takeInput_filt (rest : List Input) : (s.takeInput rest).filt = s.filt := rfl
@[simp] theorem State.takeInput_border (rest : List Input) : (s.takeInput rest).border = s.border := rfl
@[simp] theorem State.takeInput_faulted (rest : List Input) : (s.takeInput rest).faulted = s.faulted := rfl
@[simp] theorem State.takeInput_refusedSeen (rest : List Input) : (s.takeInput rest).refusedSeen = s.refusedSeen := rfl
@[simp] theorem State.takeInput_out (rest : List Input) : (s.takeInput rest).out = s.out := rfl
@[simp] theorem State.takeInput_inputs (rest : List Input) : (s.takeInput rest).inputs = rest := rfl

/-! ### `deliver` -/

@[simp] theorem State.deliver_cfg (x : Binary64) (ev : List Event) :
    (s.deliver x ev).cfg = s.cfg := rfl
@[simp] theorem State.deliver_att (x : Binary64) (ev : List Event) :
    (s.deliver x ev).att = s.att := rfl
@[simp] theorem State.deliver_cont (x : Binary64) (ev : List Event) :
    (s.deliver x ev).cont = s.cont := rfl
@[simp] theorem State.deliver_blk (x : Binary64) (ev : List Event) :
    (s.deliver x ev).blk = s.blk := rfl
@[simp] theorem State.deliver_bidx (x : Binary64) (ev : List Event) :
    (s.deliver x ev).bidx = s.bidx := rfl
@[simp] theorem State.deliver_tl (x : Binary64) (ev : List Event) :
    (s.deliver x ev).tl = s.tl := rfl
@[simp] theorem State.deliver_fin (x : Binary64) (ev : List Event) :
    (s.deliver x ev).fin = s.fin := rfl
@[simp] theorem State.deliver_pol (x : Binary64) (ev : List Event) :
    (s.deliver x ev).pol = s.pol := rfl
@[simp] theorem State.deliver_filt (x : Binary64) (ev : List Event) :
    (s.deliver x ev).filt = Binary64.filterStep s.filt x := rfl
@[simp] theorem State.deliver_border (x : Binary64) (ev : List Event) :
    (s.deliver x ev).border = s.border := rfl
@[simp] theorem State.deliver_faulted (x : Binary64) (ev : List Event) :
    (s.deliver x ev).faulted = s.faulted := rfl
@[simp] theorem State.deliver_refusedSeen (x : Binary64) (ev : List Event) :
    (s.deliver x ev).refusedSeen = s.refusedSeen := rfl
@[simp] theorem State.deliver_out (x : Binary64) (ev : List Event) :
    (s.deliver x ev).out = some
      { code := .ok
        rdata := 0x00
        sample := some
          { x := x
            y := Binary64.filterStep s.filt x
            channels := List.replicate s.cfg.nCh (Binary64.filterStep s.filt x) }
        events := ev } := rfl
@[simp] theorem State.deliver_inputs (x : Binary64) (ev : List Event) :
    (s.deliver x ev).inputs = s.inputs := rfl

/-! ### The reset input, and the views -/

@[simp] theorem State.assertReset_inputs : s.assertReset.inputs = s.inputs := rfl
@[simp] theorem State.assertReset_cfg : s.assertReset.cfg = s.cfg := rfl
theorem State.assertReset_eq : s.assertReset = { State.resetWith s.cfg with inputs := s.inputs } := rfl
@[simp] theorem State.clen_eq : s.clen = s.cont.length := rfl
@[simp] theorem State.nblk_eq : s.nblk = s.blk.length := rfl

/-! ### `record` inside a step -/

@[simp] theorem State.record_fst (sgn : Sign) (lo hi : Colour) :
    (s.record sgn lo hi).1 = s.setBorder (s.border.record s.cfg s.fin sgn lo hi).1 := rfl
@[simp] theorem State.record_snd (sgn : Sign) (lo hi : Colour) :
    (s.record sgn lo hi).2 = (s.border.record s.cfg s.fin sgn lo hi).2 := rfl

end Sys2Proof.Machine
end

