-- ==== Sys2Proof/Laws/Border.lean ====
section
/-! SUPPORT. The border sampler: everything one `record` can do (43_border.md R210 to R215). -/

namespace Sys2Proof.Machine

/-! ### `store` and `takeSnap` -/

@[simp] theorem Border.store_line (c : Config) (b : Border) (col : Colour) :
    (b.store c col).line = b.line := by unfold Border.store; split <;> rfl
@[simp] theorem Border.store_bacc (c : Config) (b : Border) (col : Colour) :
    (b.store c col).bacc = b.bacc := by unfold Border.store; split <;> rfl
@[simp] theorem Border.store_fr (c : Config) (b : Border) (col : Colour) :
    (b.store c col).fr = b.fr := by unfold Border.store; split <;> rfl
@[simp] theorem Border.store_snap (c : Config) (b : Border) (col : Colour) :
    (b.store c col).snap = b.snap := by unfold Border.store; split <;> rfl
@[simp] theorem Border.store_buf_length (c : Config) (b : Border) (col : Colour) :
    (b.store c col).buf.length = b.buf.length := by unfold Border.store; split <;> simp
@[simp] theorem Border.takeSnap_buf (b : Border) : b.takeSnap.buf = b.buf := rfl
@[simp] theorem Border.takeSnap_line (b : Border) : b.takeSnap.line = b.line := rfl
@[simp] theorem Border.takeSnap_bacc (b : Border) : b.takeSnap.bacc = b.bacc := rfl
@[simp] theorem Border.takeSnap_fr (b : Border) : b.takeSnap.fr = true := rfl
@[simp] theorem Border.takeSnap_snap (b : Border) : b.takeSnap.snap = b.buf := rfl

/-- The stored entry, and no other, takes the colour (R213). -/
theorem Border.store_buf (c : Config) (b : Border) (col : Colour) (hb : b.buf.length = c.nStored)
    (j : Nat) (hj : j < c.nStored) :
    (b.store c col).buf[j]? = if j = b.line.toNat then some col else b.buf[j]? := by
  unfold Border.store
  by_cases hl : b.line.toNat < c.nStored
  · rw [if_pos hl, List.getElem?_set]
    by_cases h : j = b.line.toNat
    · rw [if_pos h.symm, if_pos h, if_pos (by omega)]
    · rw [if_neg (Ne.symm h), if_neg h]
  · rw [if_neg hl, if_neg (by omega)]

/-! ### `nextLine` and `record` -/

theorem Border.nextLine_of_ne (c : Config) (fin : Bool) (b : Border)
    (h : b.line.toNat + 1 ≠ c.nLines) :
    b.nextLine c fin = ({ b with line := b.line + 1 }, []) := by
  unfold Border.nextLine
  rw [if_neg h]

theorem Border.nextLine_of_wrap (c : Config) (fin : Bool) (b : Border)
    (h : b.line.toNat + 1 = c.nLines) :
    b.nextLine c fin =
      if fin then ({ b with line := 0 }, [])
      else (Border.takeSnap { b with line := 0 }, [.frame b.buf]) := by
  unfold Border.nextLine
  rw [if_pos h]

theorem Border.record_of_le (c : Config) (fin : Bool) (sgn : Sign) (lo hi : Colour) (b : Border)
    (h : b.bacc + c.clkHz ≤ c.lineBudget) :
    b.record c fin sgn lo hi = ({ b with bacc := b.bacc + c.clkHz }, []) := by
  unfold Border.record
  rw [if_neg (by omega)]

theorem Border.record_of_lt (c : Config) (fin : Bool) (sgn : Sign) (lo hi : Colour) (b : Border)
    (h : c.lineBudget < b.bacc + c.clkHz) :
    b.record c fin sgn lo hi =
      (Border.store c { b with bacc := b.bacc + c.clkHz - c.lineBudget }
        (commitColour lo hi sgn)).nextLine c fin := by
  unfold Border.record
  rw [if_pos h]

/-- Everything one `record` can do: no commit, a commit inside a frame, or a commit that wraps. -/
theorem Border.record_cases (c : Config) (fin : Bool) (sgn : Sign) (lo hi : Colour) (b : Border) :
    (b.bacc + c.clkHz ≤ c.lineBudget ∧
      b.record c fin sgn lo hi = ({ b with bacc := b.bacc + c.clkHz }, [])) ∨
    (c.lineBudget < b.bacc + c.clkHz ∧
      ∃ b1 : Border, b1 = Border.store c { b with bacc := b.bacc + c.clkHz - c.lineBudget }
          (commitColour lo hi sgn) ∧
        ((b.line.toNat + 1 ≠ c.nLines ∧ b.record c fin sgn lo hi = ({ b1 with line := b.line + 1 }, [])) ∨
          (b.line.toNat + 1 = c.nLines ∧ fin = true ∧
            b.record c fin sgn lo hi = ({ b1 with line := 0 }, [])) ∨
          (b.line.toNat + 1 = c.nLines ∧ fin = false ∧
            b.record c fin sgn lo hi =
              (Border.takeSnap { b1 with line := 0 }, [.frame b1.buf])))) := by
  rcases Nat.lt_or_ge c.lineBudget (b.bacc + c.clkHz) with h | h
  · refine .inr ⟨h, _, rfl, ?_⟩
    rw [Border.record_of_lt _ _ _ _ _ _ h]
    by_cases hl : b.line.toNat + 1 = c.nLines
    · rw [Border.nextLine_of_wrap _ _ _ (by simpa using hl)]
      cases fin <;> simp [hl]
    · rw [Border.nextLine_of_ne _ _ _ (by simpa using hl), Border.store_line]
      exact .inl ⟨hl, rfl⟩
  · exact .inl ⟨h, Border.record_of_le _ _ _ _ _ _ h⟩

/-- A `record` keeps the scanline counter in `0..N_LINES-1` (R40). -/
theorem Border.record_line_lt (c : Config) (fin : Bool) (sgn : Sign) (lo hi : Colour) (b : Border)
    (h : b.line.toNat < c.nLines) :
    (b.record c fin sgn lo hi).1.line.toNat < c.nLines := by
  rcases Border.record_cases c fin sgn lo hi b with
    ⟨-, e⟩ | ⟨-, b1, -, ⟨hl, e⟩ | ⟨-, -, e⟩ | ⟨-, -, e⟩⟩ <;> rw [e]
  · exact h
  · show (b.line + 1).toNat < c.nLines
    rw [BitVec.toNat_add]
    have := Nat.mod_le (b.line.toNat + (1 : BitVec 9).toNat) (2 ^ 9)
    have h1 : (1 : BitVec 9).toNat = 1 := rfl
    omega
  · show (0 : BitVec 9).toNat < c.nLines
    exact Nat.lt_of_le_of_lt (Nat.zero_le _) h
  · show (0 : BitVec 9).toNat < c.nLines
    exact Nat.lt_of_le_of_lt (Nat.zero_le _) h

/-- A `record` keeps the length of both buffers (R39, R43). -/
theorem Border.record_lengths (c : Config) (fin : Bool) (sgn : Sign) (lo hi : Colour) (b : Border)
    (hb : b.buf.length = c.nStored) (hs : b.snap.length = c.nStored) :
    (b.record c fin sgn lo hi).1.buf.length = c.nStored ∧
      (b.record c fin sgn lo hi).1.snap.length = c.nStored := by
  rcases Border.record_cases c fin sgn lo hi b with
    ⟨-, e⟩ | ⟨-, b1, rfl, ⟨-, e⟩ | ⟨-, -, e⟩ | ⟨-, -, e⟩⟩ <;> rw [e] <;> simp [hb, hs]

/-- A `record` keeps the accumulator within its budget, where a sample is no longer than a scanline
(R41, W3). -/
theorem Border.record_bacc_le (c : Config) (fin : Bool) (sgn : Sign) (lo hi : Colour) (b : Border)
    (hw : c.clkHz ≤ c.lineBudget) (h : b.bacc ≤ c.lineBudget) :
    (b.record c fin sgn lo hi).1.bacc ≤ c.lineBudget := by
  rcases Border.record_cases c fin sgn lo hi b with
    ⟨hl, e⟩ | ⟨-, b1, rfl, ⟨-, e⟩ | ⟨-, -, e⟩ | ⟨-, -, e⟩⟩ <;> rw [e] <;> simp <;> omega

/-- After exhaustion a `record` leaves `fr` and `snap` and emits nothing (R215). -/
theorem Border.record_fin (c : Config) (sgn : Sign) (lo hi : Colour) (b : Border) :
    (b.record c true sgn lo hi).1.fr = b.fr ∧ (b.record c true sgn lo hi).1.snap = b.snap ∧
      (b.record c true sgn lo hi).2 = [] := by
  rcases Border.record_cases c true sgn lo hi b with
    ⟨-, e⟩ | ⟨-, b1, rfl, ⟨-, e⟩ | ⟨-, -, e⟩ | ⟨-, h, -⟩⟩
  · rw [e]; simp
  · rw [e]; simp
  · rw [e]; simp
  · cases h

/-- The events of a `record`: none, or one FRAME that carries `snap` as the step left it (R215, R241);
without one `snap` and `fr` stay. -/
theorem Border.record_events (c : Config) (fin : Bool) (sgn : Sign) (lo hi : Colour) (b : Border) :
    ((b.record c fin sgn lo hi).2 = [] ∧ (b.record c fin sgn lo hi).1.snap = b.snap ∧
      (b.record c fin sgn lo hi).1.fr = b.fr) ∨
    (fin = false ∧ (b.record c fin sgn lo hi).2 = [.frame (b.record c fin sgn lo hi).1.snap] ∧
      (b.record c fin sgn lo hi).1.fr = true) := by
  rcases Border.record_cases c fin sgn lo hi b with
    ⟨-, e⟩ | ⟨-, b1, rfl, ⟨-, e⟩ | ⟨-, -, e⟩ | ⟨-, h, e⟩⟩ <;> rw [e] <;> simp_all

/-! ### READ_SNAP -/

/-- The entry, where there is one (R218). -/
theorem snapEntry_of_some {snap : List Colour} {idx : Byte} {col : Colour}
    (h : snap[idx.toNat]? = some col) : snapEntry snap idx = col := by
  unfold snapEntry
  rw [h]

/-- With 256 entries every index has one (R218). -/
theorem getElem?_snap (snap : List Colour) (h : snap.length = 256) (idx : Byte) :
    ∃ col, snap[idx.toNat]? = some col := by
  have := idx.isLt
  exact ⟨snap[idx.toNat], List.getElem?_eq_getElem (by omega)⟩

end Sys2Proof.Machine
end

