-- ==== Sys2Proof/Laws/Memory.lean ====
section
/-! SUPPORT. The container memory: what a load puts where, the canonical form, and what a read
answers (20_memory.md R61, R62). -/

namespace Sys2Proof.Machine

theorem Memory.wfFrom_load (bytes : List Byte) (a : Nat) :
    Memory.wfFrom a (Memory.load a bytes) = true := by
  induction bytes generalizing a with
  | nil => rfl
  | cons b bytes ih => simp [Memory.load, Memory.wfFrom, ih]

@[simp] theorem Memory.load_length (bytes : List Byte) (a : Nat) :
    (Memory.load a bytes).length = bytes.length := by
  induction bytes generalizing a with
  | nil => rfl
  | cons b bytes ih => simp [Memory.load, ih]

@[simp] theorem Memory.load_bytes (bytes : List Byte) (a : Nat) :
    (Memory.load a bytes).bytes = bytes := by
  induction bytes generalizing a with
  | nil => rfl
  | cons b bytes ih => simpa [Memory.load, Memory.bytes] using ih (a + 1)

/-- A canonical memory is the load of its bytes: equal bytes are equal memories. -/
theorem Memory.eq_load_of_wfFrom (m : Memory) (a : Nat) (h : Memory.wfFrom a m = true) :
    m = Memory.load a m.bytes := by
  induction m generalizing a with
  | nil => rfl
  | cons c m ih =>
    obtain ⟨k, b⟩ := c
    simp only [Memory.wfFrom, Bool.and_eq_true, decide_eq_true_eq] at h
    obtain ⟨rfl, h⟩ := h
    simpa [Memory.bytes, Memory.load] using ih (k + 1) h

theorem Memory.eq_ofBytes_of_wf (m : Memory) (h : m.wf = true) : m = Memory.ofBytes m.bytes :=
  Memory.eq_load_of_wfFrom m 0 h

/-- In a canonical memory the addresses rise strictly. -/
theorem Memory.load_addresses (bytes : List Byte) (a : Nat) :
    (Memory.load a bytes).map Prod.fst = List.range' a bytes.length := by
  induction bytes generalizing a with
  | nil => rfl
  | cons b bytes ih => simp [Memory.load, ih, List.range'_succ]

theorem Memory.wf_addresses_increase (m : Memory) (h : m.wf = true) :
    (m.map Prod.fst).Pairwise (· < ·) := by
  rw [Memory.eq_ofBytes_of_wf m h, Memory.ofBytes, Memory.load_addresses]
  exact List.pairwise_lt_range'

/-- What a read of loaded bytes answers. -/
theorem Memory.read_load (bytes : List Byte) (a k : Nat) :
    (Memory.load a bytes).read (a + k) = bytes[k]? := by
  induction bytes generalizing a k with
  | nil => simp [Memory.load, Memory.read]
  | cons b bytes ih =>
    cases k with
    | zero => simp [Memory.load, Memory.read]
    | succ k =>
      have := ih (a + 1) k
      simp only [Memory.load, Memory.read, List.getElem?_cons_succ]
      rw [if_neg (by omega), ← this]
      congr 1
      omega

/-- A read inside a canonical memory answers a byte. -/
theorem Memory.read_of_lt (m : Memory) (h : m.wf = true) {a : Nat} (ha : a < m.length) :
    ∃ b, m.read a = some b := by
  have hl : a < m.bytes.length := by simpa [Memory.bytes] using ha
  rw [Memory.eq_ofBytes_of_wf m h, Memory.ofBytes]
  have := Memory.read_load m.bytes 0 a
  rw [Nat.zero_add] at this
  exact ⟨m.bytes[a], by rw [this, List.getElem?_eq_getElem hl]⟩

theorem Memory.read_eq_bytes (m : Memory) (h : m.wf = true) (a : Nat) :
    m.read a = m.bytes[a]? := by
  have := Memory.read_load m.bytes 0 a
  rw [Nat.zero_add] at this
  conv_lhs => rw [Memory.eq_ofBytes_of_wf m h, Memory.ofBytes]
  exact this

/-- `MemRead16` is answered where both its bytes are, and by those bytes. -/
theorem Memory.read16_cases {m : Memory} {p : Nat} {L : BitVec 16} (h : m.read16 p = some L) :
    ∃ lo hi : Byte, m.read p = some lo ∧ m.read (p + 1) = some hi ∧ L = hi ++ lo := by
  unfold Memory.read16 at h
  split at h
  · rename_i lo hi h1 h2
    exact ⟨lo, hi, h1, h2, (Option.some.inj h).symm⟩
  · cases h

end Sys2Proof.Machine
end

