-- ==== Sys2Proof/Laws/Container.lean ====
section
/-! SUPPORT. The validation walk and the commands that use it (40_container.md R120 to R124). -/

namespace Sys2Proof.Machine

/-- One iteration of the walk (R121): the end of the bytes, or one more block. -/
theorem walkFrom_cases {B : List Byte} {fuel p : Nat} {T : List Nat}
    (h : walkFrom B (fuel + 1) p = some T) :
    (B.length ≤ p ∧ T = []) ∨
    ∃ (lo hi : Byte) (T' : List Nat), B[p]? = some lo ∧ B[p + 1]? = some hi ∧
      0 < (hi ++ lo : BitVec 16).toNat ∧ p + 2 + (hi ++ lo : BitVec 16).toNat ≤ B.length ∧
      walkFrom B fuel (p + 2 + (hi ++ lo : BitVec 16).toNat) = some T' ∧ T = p :: T' := by
  unfold walkFrom at h
  split at h
  · split at h
    · rename_i lo hi h1 h2
      split at h
      · cases h
      · split at h
        · cases h
        · obtain ⟨T', hT, rfl⟩ := Option.map_eq_some_iff.1 h
          exact .inr ⟨lo, hi, T', h1, h2, by omega, by omega, hT, rfl⟩
    · cases h
  · exact .inl ⟨by omega, (Option.some.inj h).symm⟩

/-- Every block the walk lists has its length field and its payload region inside the bytes. -/
theorem walkFrom_mem {B : List Byte} {fuel p : Nat} {T : List Nat} (h : walkFrom B fuel p = some T)
    {q : Nat} (hq : q ∈ T) :
    ∃ lo hi : Byte, B[q]? = some lo ∧ B[q + 1]? = some hi ∧ 0 < (hi ++ lo : BitVec 16).toNat ∧
      q + 2 + (hi ++ lo : BitVec 16).toNat ≤ B.length := by
  induction fuel generalizing p T with
  | zero => cases h
  | succ fuel ih =>
    rcases walkFrom_cases h with ⟨-, rfl⟩ | ⟨lo, hi, T', h1, h2, h3, h4, h5, rfl⟩
    · cases hq
    · rcases List.mem_cons.1 hq with rfl | hq
      · exact ⟨lo, hi, h1, h2, h3, h4⟩
      · exact ih h5 hq

/-- A block of a canonical container's table: its length field, and its payload region inside the
container (R61, R64). -/
theorem walk_block {m : Memory} {T : List Nat} (hm : m.wf = true) (h : walk m.bytes = some T)
    {i p : Nat} (hp : T[i]? = some p) :
    ∃ L : BitVec 16, m.read16 p = some L ∧ 0 < L.toNat ∧ p + 2 + L.toNat ≤ m.length := by
  obtain ⟨lo, hi, h1, h2, h3, h4⟩ := walkFrom_mem h (List.mem_of_getElem? hp)
  refine ⟨hi ++ lo, ?_, h3, by simpa [Memory.bytes] using h4⟩
  unfold Memory.read16
  rw [Memory.read_eq_bytes m hm, Memory.read_eq_bytes m hm, h1, h2]

/-- Everything ATTACH can do (R120, R122, R123). -/
theorem execAttach_cases (B : List Byte) (s : State) :
    (overCapacity s.cfg B.length = true ∧ execAttach B s = .next (s.respond .capacity 0x00)) ∨
    (overCapacity s.cfg B.length = false ∧ walk B = none ∧
      execAttach B s = .next (s.respond .malformed 0x00)) ∨
    (overCapacity s.cfg B.length = false ∧ ∃ T, walk B = some T ∧
      execAttach B s =
        .next (((s.setContainer true (Memory.ofBytes B) T).restart).respond .ok 0x00)) := by
  unfold execAttach
  cases hc : overCapacity s.cfg B.length
  · cases hw : walk B with
    | none => exact .inr (.inl ⟨rfl, rfl, rfl⟩)
    | some T => exact .inr (.inr ⟨rfl, T, rfl, rfl⟩)
  · exact .inl ⟨rfl, rfl⟩

end Sys2Proof.Machine
end

