-- ==== Sys2Proof/Laws/Decode.lean ====
section
/-! SUPPORT. The fields of a command word, as numbers (30_encoding.md R90, R105). -/

namespace Sys2Proof

/-- Two bytes as one number, the first the high part (R9). -/
theorem append_toNat (hi lo : Byte) : (hi ++ lo : BitVec 16).toNat = hi.toNat * 256 + lo.toNat := by
  rw [BitVec.toNat_append, Nat.shiftLeft_eq, Nat.mul_comm]
  have := Nat.two_pow_add_eq_or_of_lt (i := 8) lo.isLt hi.toNat
  omega

theorem wordOp_toNat (w : Word) : (wordOp w).toNat = w.toNat % 256 := by
  simp [wordOp]

theorem wordImm_toNat (w : Word) : (wordImm w).toNat = w.toNat / 256 := by
  have := w.isLt
  simp [wordImm, Nat.shiftRight_eq_div_pow]
  omega

@[simp] theorem wordOp_append (imm op : Byte) : wordOp (imm ++ op) = op := by
  apply BitVec.eq_of_toNat_eq
  have := op.isLt
  rw [wordOp_toNat, append_toNat]
  omega

@[simp] theorem wordImm_append (imm op : Byte) : wordImm (imm ++ op) = imm := by
  apply BitVec.eq_of_toNat_eq
  have := op.isLt
  rw [wordImm_toNat, append_toNat]
  omega

/-- A word is its two fields (R90). -/
theorem word_eq_append (w : Word) : wordImm w ++ wordOp w = w := by
  apply BitVec.eq_of_toNat_eq
  rw [append_toNat, wordImm_toNat, wordOp_toNat]
  omega

@[simp] theorem wordOp_word (i : Instr) : wordOp i.word = i.opcode := wordOp_append _ _
@[simp] theorem wordImm_word (i : Instr) : wordImm i.word = i.imm8 := wordImm_append _ _

end Sys2Proof
end

