-- ==== Sys2Proof/Laws/Float.lean ====
section
/-! SUPPORT. Rounding: the grid around a value, what `roundDiv` can answer, and that every sum and
product is a binary64 value (00_scope.md R9). -/

namespace Sys2Proof.Binary64

/-- The grid is the least one, or fine enough that the rounded significand has 53 bits. -/
theorem gridExp_cases (n k : Nat) :
    (gridExp n k = 0 ∧ n / 2 ^ k < 2 ^ 53) ∨
      (2 ^ (52 + gridExp n k) ≤ n / 2 ^ k ∧ n / 2 ^ k < 2 ^ (53 + gridExp n k)) := by
  unfold gridExp
  generalize n / 2 ^ k = q
  by_cases hq : q < 2 ^ 53
  · left
    refine ⟨?_, hq⟩
    rcases Nat.eq_zero_or_pos q with rfl | h0
    · rfl
    · have := (Nat.log2_lt h0.ne').2 hq
      omega
  · right
    have h0 : q ≠ 0 := by rintro rfl; simp at hq
    have h53 : 53 ≤ Nat.log2 q := (Nat.le_log2 h0).2 (Nat.le_of_not_lt hq)
    have e1 : 52 + (Nat.log2 q - 52) = Nat.log2 q := by omega
    have e2 : 53 + (Nat.log2 q - 52) = Nat.log2 q + 1 := by omega
    rw [e1, e2]
    exact ⟨Nat.log2_self_le h0, Nat.lt_log2_self⟩

/-- The quotient on the grid. -/
theorem grid_quotient (n k : Nat) : n / 2 ^ (k + gridExp n k) = n / 2 ^ k / 2 ^ gridExp n k := by
  rw [Nat.pow_add, Nat.div_div_eq_div_mul]

theorem grid_quotient_lt (n k : Nat) : n / 2 ^ (k + gridExp n k) < 2 ^ 53 := by
  rw [grid_quotient]
  rcases gridExp_cases n k with ⟨h0, h⟩ | ⟨-, h⟩
  · rw [h0]; simpa using h
  · rw [Nat.div_lt_iff_lt_mul (by positivity), ← Nat.pow_add]; exact h

theorem grid_quotient_ge (n k : Nat) (h : gridExp n k ≠ 0) : 2 ^ 52 ≤ n / 2 ^ (k + gridExp n k) := by
  rw [grid_quotient]
  rcases gridExp_cases n k with ⟨h0, -⟩ | ⟨h', -⟩
  · exact absurd h0 h
  · rw [Nat.le_div_iff_mul_le (by positivity), ← Nat.pow_add]; exact h'

/-- `roundDiv` answers the quotient or the next integer. -/
theorem roundDiv_cases (n d : Nat) : roundDiv n d = n / d ∨ roundDiv n d = n / d + 1 := by
  unfold roundDiv; split <;> simp

theorem roundDiv_of_dvd {n d : Nat} (h : d ∣ n) : roundDiv n d = n / d := by
  have h0 : n % d = 0 := Nat.mod_eq_zero_of_dvd h
  unfold roundDiv
  rw [if_neg]
  rintro (h1 | ⟨h1, h2⟩)
  · omega
  · have : d = 0 := by omega
    subst this
    simp at h2

theorem valid_pack (neg : Bool) (m e : Nat) (hm : m ≤ 2 ^ 53) (he : e = 0 ∨ 2 ^ 52 ≤ m) :
    (pack neg m e).valid = true := by
  unfold pack
  split
  · split
    · rfl
    · simp only [valid, decide_eq_true_eq]; omega
  · split
    · rfl
    · simp only [valid, decide_eq_true_eq]; omega

/-- A rounded result is a binary64 value. -/
theorem valid_round (neg : Bool) (n k : Nat) : (round neg n k).valid = true := by
  unfold round
  have hlt := grid_quotient_lt n k
  apply valid_pack
  · rcases roundDiv_cases n (2 ^ (k + gridExp n k)) with h | h <;> omega
  · by_cases hg : gridExp n k = 0
    · exact .inl hg
    · right
      have := grid_quotient_ge n k hg
      rcases roundDiv_cases n (2 ^ (k + gridExp n k)) with h | h <;> omega

theorem valid_add (a b : Binary64) : (add a b).valid = true := by
  cases a <;> cases b <;> simp only [add] <;> (try split) <;>
    first | exact valid_round _ _ _ | rfl

theorem valid_mul (a b : Binary64) : (mul a b).valid = true := by
  cases a <;> cases b <;> simp only [mul] <;> (try split) <;>
    first | exact valid_round _ _ _ | rfl

/-- The filter answers a binary64 value, whatever it is given. -/
theorem valid_filterStep (y x : Binary64) : (filterStep y x).valid = true := valid_add _ _

end Sys2Proof.Binary64
end

