-- ==== Sys2Proof/Laws/Timeline.lean ====
section
/-! SUPPORT. The timeline: what fixes its phase, what an event and an advance can do, and what an
advance keeps (41_timeline.md R140 to R157). -/

namespace Sys2Proof.Machine

/-! ### The phase -/

theorem Timeline.phase_pause_iff (t : Timeline) : t.phase = .pause ↔ t.pausePend = true := by
  unfold Timeline.phase; split <;> simp_all; repeat' split <;> simp_all

theorem Timeline.phase_lead_iff (t : Timeline) :
    t.phase = .lead ↔ t.pausePend = false ∧ 0 < t.leadRem.toNat := by
  unfold Timeline.phase; repeat' split
  all_goals simp_all

theorem Timeline.phase_sync1_iff (t : Timeline) :
    t.phase = .sync1 ↔ t.pausePend = false ∧ t.leadRem.toNat = 0 ∧ t.sync1Pend = true := by
  unfold Timeline.phase; repeat' split
  all_goals (try simp_all) <;> (try omega)

theorem Timeline.phase_sync2_iff (t : Timeline) :
    t.phase = .sync2 ↔
      t.pausePend = false ∧ t.leadRem.toNat = 0 ∧ t.sync1Pend = false ∧ t.sync2Pend = true := by
  unfold Timeline.phase; repeat' split
  all_goals (try simp_all) <;> (try omega)

theorem Timeline.phase_data_iff (t : Timeline) :
    t.phase = .data ↔
      t.pausePend = false ∧ t.leadRem.toNat = 0 ∧ t.sync1Pend = false ∧ t.sync2Pend = false ∧
        t.off.toNat < t.len.toNat := by
  unfold Timeline.phase; repeat' split
  all_goals (try simp_all) <;> (try omega)

theorem Timeline.phase_complete_iff (t : Timeline) :
    t.phase = .complete ↔
      t.pausePend = false ∧ t.leadRem.toNat = 0 ∧ t.sync1Pend = false ∧ t.sync2Pend = false ∧
        t.len.toNat ≤ t.off.toNat := by
  unfold Timeline.phase; repeat' split
  all_goals (try simp_all) <;> (try omega)

/-! ### Named updates -/

@[simp] theorem Timeline.setAcc_pausePend (t : Timeline) (a : Nat) : (t.setAcc a).pausePend = t.pausePend := rfl
@[simp] theorem Timeline.setAcc_leadRem (t : Timeline) (a : Nat) : (t.setAcc a).leadRem = t.leadRem := rfl
@[simp] theorem Timeline.setAcc_sync1Pend (t : Timeline) (a : Nat) : (t.setAcc a).sync1Pend = t.sync1Pend := rfl
@[simp] theorem Timeline.setAcc_sync2Pend (t : Timeline) (a : Nat) : (t.setAcc a).sync2Pend = t.sync2Pend := rfl
@[simp] theorem Timeline.setAcc_off (t : Timeline) (a : Nat) : (t.setAcc a).off = t.off := rfl
@[simp] theorem Timeline.setAcc_bitx (t : Timeline) (a : Nat) : (t.setAcc a).bitx = t.bitx := rfl
@[simp] theorem Timeline.setAcc_hc (t : Timeline) (a : Nat) : (t.setAcc a).hc = t.hc := rfl
@[simp] theorem Timeline.setAcc_acc (t : Timeline) (a : Nat) : (t.setAcc a).acc = a := rfl
@[simp] theorem Timeline.setAcc_len (t : Timeline) (a : Nat) : (t.setAcc a).len = t.len := rfl
@[simp] theorem Timeline.setAcc_base (t : Timeline) (a : Nat) : (t.setAcc a).base = t.base := rfl
@[simp] theorem Timeline.setAcc_phase (t : Timeline) (a : Nat) : (t.setAcc a).phase = t.phase := rfl
@[simp] theorem Timeline.setAcc_intact (t : Timeline) (a : Nat) : (t.setAcc a).intact = t.intact := rfl
@[simp] theorem Timeline.setAcc_dur (c : Config) (m : Memory) (t : Timeline) (a : Nat) :
    (t.setAcc a).dur c m = t.dur c m := rfl

theorem Timeline.intact_iff (t : Timeline) :
    t.intact = true ↔ (t.hc = 1 ∨ t.hc = 2) ∧ t.off.toNat ≤ t.len.toNat := by
  simp [Timeline.intact]

/-- Everything a DATA event can do (R149). -/
theorem Timeline.dataEvent_cases (t : Timeline) :
    (t.hc = 2 ∧ t.dataEvent = { t with hc := 1 }) ∨
    (t.hc ≠ 2 ∧ t.bitx = 0 ∧ t.dataEvent = { t with hc := 2, bitx := 7, off := t.off + 1 }) ∨
    (t.hc ≠ 2 ∧ t.bitx ≠ 0 ∧ t.dataEvent = { t with hc := 2, bitx := t.bitx - 1 }) := by
  unfold Timeline.dataEvent
  by_cases h : t.hc = 2
  · exact .inl ⟨h, by rw [if_pos h]⟩
  · by_cases hb : t.bitx = 0
    · exact .inr (.inl ⟨h, hb, by rw [if_neg h, if_pos hb]⟩)
    · exact .inr (.inr ⟨h, hb, by rw [if_neg h, if_neg hb]⟩)

/-! ### The interval threshold -/

/-- Where a threshold is answered, it is that of the phase (R143). -/
theorem Timeline.dur_cases {c : Config} {m : Memory} {t : Timeline} {d : Nat}
    (h : t.dur c m = .ok d) :
    (t.phase = .pause ∧ d = c.pauseT) ∨ (t.phase = .lead ∧ d = c.leadT) ∨
    (t.phase = .sync1 ∧ d = c.sync1T) ∨ (t.phase = .sync2 ∧ d = c.sync2T) ∨
    (t.phase = .data ∧ ∃ b, m.read (t.base + t.off.toNat) = some b ∧
      d = bitTicks c b t.bitx.toNat) := by
  unfold Timeline.dur at h
  split at h
  · exact .inl ⟨‹_›, (Except.ok.inj h).symm⟩
  · exact .inr (.inl ⟨‹_›, (Except.ok.inj h).symm⟩)
  · exact .inr (.inr (.inl ⟨‹_›, (Except.ok.inj h).symm⟩))
  · exact .inr (.inr (.inr (.inl ⟨‹_›, (Except.ok.inj h).symm⟩)))
  · split at h
    · exact .inr (.inr (.inr (.inr ⟨‹_›, _, ‹_›, (Except.ok.inj h).symm⟩)))
    · cases h
  · cases h

/-- An active timeline whose block lies in the container has a threshold (R61, R143). -/
theorem Timeline.dur_ok {c : Config} {m : Memory} {t : Timeline} (hm : m.wf = true)
    (hb : t.base + t.len.toNat ≤ m.length) (ha : t.phase ≠ .complete) : ∃ d, t.dur c m = .ok d := by
  unfold Timeline.dur
  split
  · exact ⟨_, rfl⟩
  · exact ⟨_, rfl⟩
  · exact ⟨_, rfl⟩
  · exact ⟨_, rfl⟩
  · have := (Timeline.phase_data_iff t).1 ‹_›
    obtain ⟨b, hr⟩ := Memory.read_of_lt m hm (a := t.base + t.off.toNat) (by omega)
    rw [hr]
    exact ⟨_, rfl⟩
  · contradiction

/-- W2 for each threshold: one sample period is no longer than it. -/
theorem Timeline.clk_le_dur {c : Config} {m : Memory} {t : Timeline} {d : Nat} (hw : c.w2 = true)
    (h : t.dur c m = .ok d) : c.clkHz ≤ d * c.srHz := by
  have hmin : c.clkHz ≤ c.minT * c.srHz := by simpa [Config.w2] using hw
  have key : c.minT ≤ d := by
    unfold Config.minT
    rcases Timeline.dur_cases h with ⟨-, rfl⟩ | ⟨-, rfl⟩ | ⟨-, rfl⟩ | ⟨-, rfl⟩ | ⟨-, b, -, rfl⟩
    · omega
    · omega
    · omega
    · omega
    · unfold bitTicks; split <;> omega
  exact le_trans hmin (Nat.mul_le_mul_right _ key)

/-! ### The advance -/

/-- Everything an advance can do (R144). -/
theorem Timeline.advance_cases {c : Config} {m : Memory} {t t' : Timeline} {flip : Bool}
    (h : t.advance c m = .ok (t', flip)) :
    t.intact = true ∧ ∃ d, t.dur c m = .ok d ∧
      ((t.acc + c.clkHz < d * c.srHz ∧ t' = t.setAcc (t.acc + c.clkHz) ∧ flip = false) ∨
        (d * c.srHz ≤ t.acc + c.clkHz ∧
          (t', flip) = (t.setAcc (t.acc + c.clkHz - d * c.srHz)).event t.phase)) := by
  unfold Timeline.advance at h
  split at h
  · refine ⟨‹_›, ?_⟩
    split at h
    · cases h
    · rename_i d hd
      refine ⟨d, hd, ?_⟩
      split at h
      · obtain ⟨rfl, rfl⟩ := Prod.mk.inj (Except.ok.inj h)
        exact .inl ⟨‹_›, rfl, rfl⟩
      · exact .inr ⟨by omega, (Except.ok.inj h).symm⟩
  · cases h

/-- Where the checks pass, an advance answers (R144, R236). -/
theorem Timeline.advance_ok {c : Config} {m : Memory} {t : Timeline} {d : Nat}
    (hi : t.intact = true) (hd : t.dur c m = .ok d) : ∃ r, t.advance c m = .ok r := by
  unfold Timeline.advance
  rw [if_pos hi, hd]
  dsimp only
  split <;> exact ⟨_, rfl⟩

/-- Everything an advance can do, event by event (R144 to R149). -/
theorem Timeline.advance_events {c : Config} {m : Memory} {t t' : Timeline} {flip : Bool}
    (h : t.advance c m = .ok (t', flip)) :
    t.intact = true ∧ ∃ d a, t.dur c m = .ok d ∧
      ((t.acc + c.clkHz < d * c.srHz ∧ t' = t.setAcc (t.acc + c.clkHz) ∧ flip = false) ∨
       (d * c.srHz ≤ t.acc + c.clkHz ∧ a = t.acc + c.clkHz - d * c.srHz ∧
        ((t.phase = .pause ∧ t' = { t with acc := a, pausePend := false } ∧ flip = false) ∨
         (t.phase = .lead ∧ t' = { t with acc := a, leadRem := t.leadRem - 1 } ∧ flip = true) ∨
         (t.phase = .sync1 ∧ t' = { t with acc := a, sync1Pend := false } ∧ flip = true) ∨
         (t.phase = .sync2 ∧ t' = { t with acc := a, sync2Pend := false } ∧ flip = true) ∨
         (t.phase = .data ∧ t.hc = 2 ∧ t' = { t with acc := a, hc := 1 } ∧ flip = true) ∨
         (t.phase = .data ∧ t.hc = 1 ∧ t.bitx = 0 ∧
            t' = { t with acc := a, hc := 2, bitx := 7, off := t.off + 1 } ∧ flip = true) ∨
         (t.phase = .data ∧ t.hc = 1 ∧ t.bitx ≠ 0 ∧
            t' = { t with acc := a, hc := 2, bitx := t.bitx - 1 } ∧ flip = true)))) := by
  obtain ⟨hi, d, hd, h | ⟨hge, h⟩⟩ := Timeline.advance_cases h
  · exact ⟨hi, d, 0, hd, .inl h⟩
  · refine ⟨hi, d, _, hd, .inr ⟨hge, rfl, ?_⟩⟩
    generalize t.acc + c.clkHz - d * c.srHz = a at h
    cases hp : t.phase <;> rw [hp] at h <;> simp only [Timeline.event, Prod.mk.injEq] at h <;>
      obtain ⟨rfl, rfl⟩ := h
    · exact .inl ⟨rfl, rfl, rfl⟩
    · exact .inr (.inl ⟨rfl, rfl, rfl⟩)
    · exact .inr (.inr (.inl ⟨rfl, rfl, rfl⟩))
    · exact .inr (.inr (.inr (.inl ⟨rfl, rfl, rfl⟩)))
    · have hhc := ((Timeline.intact_iff t).1 hi).1
      rcases Timeline.dataEvent_cases (t.setAcc a) with ⟨h1, e⟩ | ⟨h1, h2, e⟩ | ⟨h1, h2, e⟩ <;>
        simp only [Timeline.setAcc_hc] at h1 <;> rw [e]
      · exact .inr (.inr (.inr (.inr (.inl ⟨rfl, h1, rfl, rfl⟩))))
      · exact .inr (.inr (.inr (.inr (.inr (.inl
          ⟨rfl, hhc.resolve_right h1, h2, rfl, rfl⟩)))))
      · exact .inr (.inr (.inr (.inr (.inr (.inr
          ⟨rfl, hhc.resolve_right h1, h2, rfl, rfl⟩)))))
    · exact absurd hd (by simp [Timeline.dur, hp])

/-- What an advance never changes: the block it plays (R36). -/
theorem Timeline.advance_block {c : Config} {m : Memory} {t t' : Timeline} {flip : Bool}
    (h : t.advance c m = .ok (t', flip)) : t'.len = t.len ∧ t'.base = t.base := by
  obtain ⟨-, d, a, -, ⟨-, rfl, -⟩ | ⟨-, -, hx⟩⟩ := Timeline.advance_events h
  · exact ⟨rfl, rfl⟩
  · rcases hx with ⟨-, rfl, -⟩ | ⟨-, rfl, -⟩ | ⟨-, rfl, -⟩ | ⟨-, rfl, -⟩ | ⟨-, -, rfl, -⟩ |
      ⟨-, -, -, rfl, -⟩ | ⟨-, -, -, rfl, -⟩ <;> exact ⟨rfl, rfl⟩

/-! ### Construction -/

/-- Everything construction can answer (R140). -/
theorem newTimeline_cases {c : Config} {m : Memory} {i p : Nat} {t : Timeline}
    (h : newTimeline c m i p = .ok t) :
    ∃ (L : BitVec 16) (flag : Byte), m.read16 p = some L ∧ m.read (p + 2) = some flag ∧
      t = { pausePend := decide (0 < i), leadRem := leadCount c flag, sync1Pend := true,
            sync2Pend := true, off := 0, bitx := 7, hc := 2, acc := 0, len := L, base := p + 2 } := by
  unfold newTimeline at h
  split at h
  · exact ⟨_, _, ‹_›, ‹_›, (Except.ok.inj h).symm⟩
  · cases h

/-- W4: a lead count is in 1..65535, as the configuration gives it. -/
theorem leadCount_toNat {c : Config} (h : c.w4 = true) (flag : Byte) :
    (leadCount c flag).toNat = (if flag = 0x00 then c.leadNHdr else c.leadNData) ∧
      0 < (leadCount c flag).toNat := by
  simp only [Config.w4, decide_eq_true_eq] at h
  unfold leadCount
  split <;> simp only [BitVec.toNat_ofNat] <;> omega

end Sys2Proof.Machine
end

