-- ==== Sys2Proof/Laws/Encoder.lean ====
section
/-! SUPPORT. SAMPLE: everything it can do (42_encoder.md R180), and the fields of what it answers. -/

namespace Sys2Proof.Machine

/-- Everything a SAMPLE that answers a next state can have done: silence (R181), the finished path
(R182), the finish (R183), or an advance of the timeline present or just built (R184). -/
theorem execSample_cases {s t : State} (h : execSample s = .next t) :
    (s.att = false ∧ t = s.idleSample .zero .posZero []) ∨
    (s.att = true ∧ s.fin = true ∧ t = s.idleSample s.pol.sign (level s.cfg s.pol) []) ∨
    (s.att = true ∧ s.fin = false ∧ s.tl = none ∧ s.blk[s.bidx]? = none ∧
      t = s.finish.1.idleSample s.pol.sign (level s.cfg s.pol) s.finish.2) ∨
    (s.att = true ∧ s.fin = false ∧ ∃ u u' flip,
      (s.tl = some u ∨ (s.tl = none ∧ ∃ p, s.blk[s.bidx]? = some p ∧
        newTimeline s.cfg s.cont s.bidx p = .ok u)) ∧
      u.advance s.cfg s.cont = .ok (u', flip) ∧ t = s.playSample u u' flip) := by
  have run : ∀ u, s.runTimeline u = .next t →
      ∃ u' flip, u.advance s.cfg s.cont = .ok (u', flip) ∧ t = s.playSample u u' flip := by
    intro u hu
    unfold State.runTimeline at hu
    split at hu
    · cases hu
    · injection hu with hu
      exact ⟨_, _, ‹_›, hu.symm⟩
  unfold execSample at h
  by_cases ha : s.att = false
  · rw [if_pos ha] at h
    injection h with h
    exact .inl ⟨ha, h.symm⟩
  · have ha' : s.att = true := by simpa using ha
    rw [if_neg ha] at h
    cases hf : s.fin
    · rw [hf] at h
      simp only [Bool.false_eq_true, if_false] at h
      split at h
      · rename_i htl
        unfold State.startOrFinish at h
        split at h
        · injection h with h
          exact .inr (.inr (.inl ⟨ha', rfl, htl, ‹_›, h.symm⟩))
        · rename_i p hp
          split at h
          · cases h
          · rename_i u hu
            obtain ⟨u', flip, h1, h2⟩ := run u h
            exact .inr (.inr (.inr ⟨ha', rfl, u, u', flip, .inr ⟨htl, p, hp, hu⟩, h1, h2⟩))
      · rename_i u htl
        obtain ⟨u', flip, h1, h2⟩ := run u h
        exact .inr (.inr (.inr ⟨ha', rfl, u, u', flip, .inl htl, h1, h2⟩))
    · rw [hf] at h
      simp only [if_true] at h
      injection h with h
      exact .inr (.inl ⟨ha', rfl, h.symm⟩)

/-- The paths without an advance leave all but the border sampler, the filter and the response. -/
theorem State.idleSample_eq (s : State) (sgn : Sign) (x : Binary64) (before : List Event) :
    s.idleSample sgn x before =
      (s.setBorder (s.border.record s.cfg s.fin sgn s.cfg.colIdle s.cfg.colIdle).1).deliver x
        (before ++ (s.border.record s.cfg s.fin sgn s.cfg.colIdle s.cfg.colIdle).2) := rfl

/-- The finish, written out (R183, R216). -/
theorem State.finish_eq (s : State) :
    s.finish =
      (s.setFin.setBorder (s.border.terminal s.cfg).1,
        [.done, .frame (List.replicate s.cfg.nStored s.cfg.colIdle)]) := rfl

@[simp] theorem Border.terminal_fst (c : Config) (b : Border) :
    (b.terminal c).1 =
      { b with
        buf := List.replicate c.nStored c.colIdle
        snap := List.replicate c.nStored c.colIdle
        fr := true } := rfl

/-- The polarity after an advance (R184). -/
def nextPol (pol : Polarity) (flip : Bool) : Polarity := if flip then pol.flip else pol

/-- A SAMPLE that advances a timeline, written out (R184 to R189). -/
theorem State.playSample_eq (s : State) (t t' : Timeline) (flip : Bool) :
    s.playSample t t' flip =
      State.deliver
        { s with
          tl := if t'.phase = .complete then none else some t'
          bidx := if t'.phase = .complete then s.bidx + 1 else s.bidx
          pol := nextPol s.pol flip
          border :=
            (s.border.record s.cfg s.fin s.pol.sign (tag s.cfg t.phase).1 (tag s.cfg t.phase).2).1 }
        (level s.cfg (nextPol s.pol flip))
        (s.border.record s.cfg s.fin s.pol.sign (tag s.cfg t.phase).1 (tag s.cfg t.phase).2).2 := by
  unfold State.playSample State.endIfComplete nextPol
  dsimp only
  split <;> rfl

end Sys2Proof.Machine
end

