-- ==== Sys2Proof/Laws/PerInstr.lean ====
section
/-! SUPPORT. Laws of every command as syntax, one lemma per constructor. -/

/-- Each command's word fits the row of 30_encoding.md R93 and opcode_table.json: under the row's mask
it is the row's match, and only READ_SNAP's mask leaves the upper byte free. -/
def Sys2Proof.Laws.WordFitsTableRow.Statement (i : Sys2Proof.Instr) : Prop :=
  match i with
  | .nop => i.word &&& 0xFFFF = 0x0000
  | .sample => i.word &&& 0xFFFF = 0x0001
  | .attach _ => i.word &&& 0xFFFF = 0x0002
  | .detach => i.word &&& 0xFFFF = 0x0003
  | .ackFrame => i.word &&& 0xFFFF = 0x0004
  | .readStatus => i.word &&& 0xFFFF = 0x0005
  | .readSnap idx => i.word &&& 0x00FF = 0x0006 ∧ Sys2Proof.wordImm i.word = idx

theorem Sys2Proof.Laws.WordFitsTableRow.nop :
    Sys2Proof.Laws.WordFitsTableRow.Statement .nop :=
  show Sys2Proof.Instr.nop.word &&& 0xFFFF = 0x0000 by decide

theorem Sys2Proof.Laws.WordFitsTableRow.sample :
    Sys2Proof.Laws.WordFitsTableRow.Statement .sample :=
  show Sys2Proof.Instr.sample.word &&& 0xFFFF = 0x0001 by decide

theorem Sys2Proof.Laws.WordFitsTableRow.attach (bytes : List Sys2Proof.Byte) :
    Sys2Proof.Laws.WordFitsTableRow.Statement (.attach bytes) := by
  show ((0x00 : Sys2Proof.Byte) ++ (0x02 : Sys2Proof.Byte) : Sys2Proof.Word) &&& 0xFFFF = 0x0002
  decide

theorem Sys2Proof.Laws.WordFitsTableRow.detach :
    Sys2Proof.Laws.WordFitsTableRow.Statement .detach :=
  show Sys2Proof.Instr.detach.word &&& 0xFFFF = 0x0003 by decide

theorem Sys2Proof.Laws.WordFitsTableRow.ackFrame :
    Sys2Proof.Laws.WordFitsTableRow.Statement .ackFrame :=
  show Sys2Proof.Instr.ackFrame.word &&& 0xFFFF = 0x0004 by decide

theorem Sys2Proof.Laws.WordFitsTableRow.readStatus :
    Sys2Proof.Laws.WordFitsTableRow.Statement .readStatus :=
  show Sys2Proof.Instr.readStatus.word &&& 0xFFFF = 0x0005 by decide

theorem Sys2Proof.Laws.WordFitsTableRow.readSnap (idx : Sys2Proof.Byte) :
    Sys2Proof.Laws.WordFitsTableRow.Statement (.readSnap idx) := by
  refine ⟨?_, Sys2Proof.wordImm_word _⟩
  show (idx ++ (0x06 : Sys2Proof.Byte) : Sys2Proof.Word) &&& 0x00FF = 0x0006
  apply BitVec.eq_of_toNat_eq
  rw [BitVec.toNat_and, Sys2Proof.append_toNat]
  show (idx.toNat * 256 + 6) &&& 2 ^ 8 - 1 = 6
  rw [Nat.and_two_pow_sub_one_eq_mod]
  omega
end

