-- ==== Sys2Proof/Tests/Slice0.lean ====
section
/-! SUPPORT. Tests. The expected values are the vectors of 95_test_vectors.md (named at each test) or
worked out by hand from the rules; then, for each statement with hypotheses, a state that meets them. -/

namespace Sys2Proof.Tests

open Sys2Proof Sys2Proof.Machine

/-! ### Configurations and states (95_test_vectors.md section 0) -/

/-- T1. -/
def t1 : Config :=
  { Config.default with
    clkHz := 10, srHz := 1, pauseT := 20, leadT := 20, sync1T := 10, sync2T := 15, bit0T := 10,
    bit1T := 20, leadNHdr := 4, leadNData := 2, lineT := 25 }

/-- T2. -/
def t2 : Config :=
  { Config.default with
    clkHz := 7, srHz := 2, pauseT := 10, leadT := 5, sync1T := 4, sync2T := 4, bit0T := 4,
    bit1T := 8, leadNHdr := 3, leadNData := 2, lineT := 5 }

/-- The container `[01 00 FF]`. -/
def oneBlock : Memory := Memory.ofBytes [0x01, 0x00, 0xFF]

/-- The timeline of that block as it is built (R140). -/
def fresh : Timeline where
  pausePend := false
  leadRem := 2
  sync1Pend := true
  sync2Pend := true
  off := 0
  bitx := 7
  hc := 2
  acc := 0
  len := 1
  base := 2

/-- Its timeline in the data phase. -/
def inData (bitx : BitVec 3) (hc : BitVec 2) (acc : Nat) : Timeline :=
  { fresh with
    leadRem := 0, sync1Pend := false, sync2Pend := false, bitx := bitx, hc := hc, acc := acc }

/-- T1 with `[01 00 FF]` attached. -/
def attached (bidx : Nat) (tl : Option Timeline) (fin : Bool) (pol : Polarity) : State :=
  { State.resetWith t1 with
    att := true, cont := oneBlock, blk := [0], bidx := bidx, tl := tl, fin := fin, pol := pol }

/-- A state whose scanline counter and accumulator are given. -/
def scanning (s : State) (line : BitVec 9) (bacc : Nat) : State :=
  { s with border := { s.border with line := line, bacc := bacc } }

/-- The state an outcome answers, if it is a next state. -/
def got (o : Host.Outcome State Fault Refusal) : Option State :=
  match o with
  | .next t => some t
  | .fault _ => none
  | .refused _ => none

/-- The fault an outcome answers. -/
def faultOf (o : Host.Outcome State Fault Refusal) : Option Fault :=
  match o with
  | .next _ => none
  | .fault f => some f
  | .refused _ => none

/-- The refusal an outcome answers. -/
def refusalOf (o : Host.Outcome State Fault Refusal) : Option Refusal :=
  match o with
  | .next _ => none
  | .fault _ => none
  | .refused r => some r

/-- The response code and the read data. -/
def answer (o : Host.Outcome State Fault Refusal) : Option (Byte × Byte) :=
  (got o).bind fun t => t.out.map fun r => (r.code.code, r.rdata)

/-- The raw level and the events of a sample. -/
def sampled (o : Host.Outcome State Fault Refusal) : Option (Binary64 × List Event) :=
  (got o).bind fun t => t.out.bind fun r => r.sample.map fun v => (v.x, r.events)

/-! ### Well-formedness: an ill-formed configuration for each check of R8 -/

theorem test_wf_default : Config.default.wf = true := by decide
theorem test_wf_t1 : t1.wf = true := by decide
theorem test_wf_t2 : t2.wf = true := by decide
theorem test_w1_refuses : ({ t1 with pauseT := 0 } : Config).w1 = false := by decide
/-- R8: with the defaults W2 needs `SR_HZ ≥ 5248`. -/
theorem test_w2_refuses : ({ Config.default with srHz := 5247 } : Config).w2 = false := by decide
theorem test_w2_accepts : ({ Config.default with srHz := 5248 } : Config).w2 = true := by decide
/-- R8: with the defaults W3 needs `SR_HZ ≥ 15 625`. -/
theorem test_w3_refuses : ({ Config.default with srHz := 15624 } : Config).w3 = false := by decide
theorem test_w3_accepts : ({ Config.default with srHz := 15625 } : Config).w3 = true := by decide
theorem test_w4_refuses : ({ t1 with leadNHdr := 65536 } : Config).w4 = false := by decide
/-- W5: as many stored entries as scanlines are allowed, one more is not. -/
theorem test_w5_refuses : ({ t1 with nStored := 313 } : Config).w5 = false := by decide
theorem test_w5_accepts : ({ t1 with nStored := 312 } : Config).wf = true := by decide
/-- R40: the 9-bit scanline counter. -/
theorem test_lines_refuses :
    ({ t1 with nLines := 513 } : Config).linesOk = false ∧
      ({ t1 with nLines := 0, nStored := 0 } : Config).linesOk = false := by decide
theorem test_lines_accepts : ({ t1 with nLines := 512 } : Config).wf = true := by decide
theorem test_w6_refuses : ({ t1 with bit1T := 10 } : Config).w6 = false := by decide
theorem test_channels_refuses : ({ t1 with nCh := 0 } : Config).channelsOk = false := by decide
theorem test_level_refuses : ({ t1 with level := .nan } : Config).levelOk = false := by decide
theorem test_every_check_counts :
    ({ t1 with pauseT := 0 } : Config).wf = false ∧
    ({ Config.default with srHz := 5247 } : Config).wf = false ∧
    ({ Config.default with srHz := 15624 } : Config).wf = false ∧
    ({ t1 with leadNData := 0 } : Config).wf = false ∧
    ({ t1 with nStored := 313 } : Config).wf = false ∧
    ({ t1 with nLines := 513 } : Config).wf = false ∧ ({ t1 with bit1T := 10 } : Config).wf = false ∧
    ({ t1 with nCh := 0 } : Config).wf = false ∧
    ({ t1 with level := .finite true 1 0 } : Config).wf = false := by decide
theorem test_ill_formed_is_refused :
    refusalOf (step (State.resetWith { t1 with srHz := 0 })) = some .configRefused := by decide
theorem test_reset_memory_wf : State.reset.cont.wf = true := by decide

/-! ### Decoding: words written out from the table of R93 -/

theorem test_decode_nop : decode 0b0000000000000000#16 [] = .ok .nop := by decide
theorem test_decode_sample : decode 0b0000000000000001#16 [] = .ok .sample := by decide
theorem test_decode_attach :
    decode 0b0000000000000010#16 [0x01, 0x00, 0xFF] = .ok (.attach [0x01, 0x00, 0xFF]) := by decide
theorem test_decode_detach : decode 0b0000000000000011#16 [] = .ok .detach := by decide
theorem test_decode_ackFrame : decode 0b0000000000000100#16 [] = .ok .ackFrame := by decide
theorem test_decode_readStatus : decode 0b0000000000000101#16 [] = .ok .readStatus := by decide
/-- V-D5. -/
theorem test_decode_readSnap : decode 0b0000010100000110#16 [] = .ok (.readSnap 5) := by decide
/-- V-D6. -/
theorem test_decode_readSnap_top : decode 0b1111111100000110#16 [] = .ok (.readSnap 255) := by decide
/-- V-D7 to V-D11. -/
theorem test_decode_reserved :
    decode 0x0007 [] = .error (.reserved 0x0007) ∧ decode 0x0107 [] = .error (.reserved 0x0107) ∧
    decode 0x0101 [] = .error (.reserved 0x0101) ∧ decode 0x0105 [] = .error (.reserved 0x0105) ∧
    decode 0x00FF [] = .error (.reserved 0x00FF) := by decide
/-- R103: `SAMPLE` is `01 00` and `RDSNAP 5` is `06 05`. -/
theorem test_bytes_of_commands :
    encodeBytes .sample = [0x01, 0x00] ∧ encodeBytes (.readSnap 5) = [0x06, 0x05] ∧
    encodeBytes (.attach [0x01, 0x00, 0xFF]) = [0x02, 0x00, 0x01, 0x00, 0xFF] := by decide
theorem test_decode_bytes :
    decodeBytes [0x06, 0x05, 0x01, 0x00] = .ok (.readSnap 5, [0x01, 0x00]) ∧
    decodeBytes [0x01] = .error .truncated := by decide
theorem test_decode_table_word :
    decodeTableWord 16 0x0000 = some .nop ∧ decodeTableWord 16 0x0002 = some (.attach []) ∧
    decodeTableWord 16 0x0506 = some (.readSnap 5) ∧ decodeTableWord 16 0x0106 = some (.readSnap 1) ∧
    decodeTableWord 8 0x05 = some .readStatus ∧ decodeTableWord 16 0x0007 = none := by decide

/-! ### Commands: one step each -/

/-- R190: `NOP` responds `(OK, 0x00)` in any state. -/
theorem test_nop : answer (exec .nop (attached 0 (some fresh) false .minus)) = some (0x00, 0x00) := by
  decide
/-- R191, V-E4: right after reset, 0x80. -/
theorem test_readStatus_reset : answer (exec .readStatus State.reset) = some (0x00, 0x80) := by decide
/-- V-E4: T1 after SAMPLE 1, 0xA9. -/
theorem test_readStatus_lead :
    answer (exec .readStatus (attached 0 (some { fresh with acc := 10 }) false .plus)) =
      some (0x00, 0xA9) := by decide
/-- R218: after reset `RDSNAP 0` responds 0x07. -/
theorem test_readSnap_reset : answer (exec (.readSnap 0) State.reset) = some (0x00, 0x07) := by
  decide +kernel
theorem test_readSnap_reads_snap_not_buf :
    answer (exec (.readSnap 255) { State.reset with
      border := { State.reset.border with snap := State.reset.border.snap.set 255 5 } }) =
      some (0x00, 0x05) := by decide +kernel
/-- V-E4, V-L1-6: finished, `fr` 1: 0x87; after ACK_FRAME 0x83. -/
theorem test_ackFrame :
    ((got (exec .ackFrame { attached 1 none true .plus with
      border := { (Border.resetWith t1) with fr := true } })).map State.status) = some 0x83 := by
  decide
/-- V-B6. -/
theorem test_ackFrame_idle :
    (got (exec .ackFrame State.reset)).map State.status = some 0x80 := by decide
/-- R124: DETACH in mid-block; the border sampler goes on from where it is (V-A5). -/
theorem test_detach :
    (got (exec .detach (scanning (attached 0 (some fresh) false .minus) 1 25))).map
      (fun t => (t.status, t.clen, t.nblk, t.border.line, t.border.bacc)) =
      some (0x80, 0, 0, 1, 25) := by decide
/-- R120: `ATTACH [01 00 FF]` over a finished playback. -/
theorem test_attach :
    (got (exec (.attach [0x01, 0x00, 0xFF]) (attached 1 none true .minus))).map
      (fun t => (t.blk, t.clen, t.bidx, t.status)) = some ([0], 3, 0, 0x81) := by decide
/-- V-A4: capacity 2. -/
theorem test_attach_capacity :
    (let s := State.resetWith { t1 with contMax := some 2 }
     [answer (exec (.attach [0x01, 0x00, 0xFF]) s), answer (exec (.attach [0x00, 0x00]) s),
      answer (exec (.attach []) s)]) =
      [some (0x03, 0x00), some (0x01, 0x00), some (0x00, 0x00)] := by decide
/-- V-E3, SAMPLE 39: the last flip, the end of the block, and no commit. -/
theorem test_sample_completes_block :
    (got (exec .sample (scanning (attached 0 (some (inData 0 1 15)) false .minus) 15 5))).map
      (fun t => (t.status, t.bidx, t.tl, t.border.bacc, t.border.line)) =
      some (0x81, 1, none, 15, 15) := by decide +kernel
/-- V-E3, SAMPLE 40: DONE, then the FRAME of 256 idle entries. -/
theorem test_sample_finishes :
    sampled (exec .sample (scanning (attached 1 none false .plus) 15 15)) =
      some (Binary64.ofBits 0x3FB999999999999A, [.done, .frame (List.replicate 256 7)]) := by
  decide +kernel

/-! ### Reserved words, faults and the step -/

/-- V-D9: no sample, time does not move, the mark is set. -/
theorem test_step_reserved :
    (got (step { State.reset with inputs := [.command 0x0101 []] })).map
      (fun t => (t.out.map fun r => r.code.code, t.refusedSeen, t.border.bacc, t.inputs)) =
      some (some 0x02, true, 0, []) := by decide
/-- R61: a data byte outside the container. -/
theorem test_oob_read :
    faultOf (exec .sample { attached 0 (some (inData 7 2 0)) false .plus with cont := [] }) =
      some .oobRead := by decide
/-- R260: RESET in the fault state. -/
theorem test_reset_leaves_fault_state :
    (got (step { attached 1 none true .minus with faulted := true, inputs := [.reset, .reset] })).map
      (fun t => (t.status, t.faulted, t.inputs)) = some (0x80, false, [.reset]) := by decide
theorem test_withFetchWord_runs :
    (got (step (State.reset.withFetchWord 16 0x0001))).map (fun t => t.border.bacc) = some 3500000 := by
  decide +kernel
theorem test_withFetchWord_decodes :
    (State.reset.withFetchWord 16 0x0506).inputs = [commandInput (.readSnap 5)] := by decide

/-! ### The operations -/

/-- V-A1. -/
theorem test_walk :
    walk [] = some [] ∧ walk [0x01, 0x00, 0xFF] = some [0] ∧ walk [0x00, 0x00] = none ∧
    walk [0x05, 0x00, 0xFF, 0x01] = none ∧ walk [0x01] = none ∧
    walk [0x01, 0x00, 0xFF, 0x01] = none ∧
    walk [0x01, 0x00, 0x00, 0x01, 0x00, 0xFF] = some [0, 3] ∧
    walk [0x02, 0x00, 0x80, 0x80] = some [0] ∧ walk [0x03, 0x00, 0xFF, 0x00, 0x00] = some [0] := by
  decide
/-- R62: a length field of 0x0100 is `00 01`. -/
theorem test_read16 : Memory.read16 (Memory.ofBytes [0x00, 0x01]) 0 = some 0x0100 := by decide
/-- R140: the example in T1. -/
theorem test_newTimeline : newTimeline t1 oneBlock 0 0 = .ok fresh := by rfl
/-- V-L1-4 and the pause of a later block. -/
theorem test_newTimeline_header :
    newTimeline t1 (Memory.ofBytes [0x01, 0x00, 0x00]) 1 0 =
      .ok { fresh with pausePend := true, leadRem := 4 } := by rfl
/-- R144: T1, LEAD, `acc` 10: an event, `acc` 0, flip. -/
theorem test_advance_lead :
    ({ fresh with acc := 10 } : Timeline).advance t1 oneBlock = .ok ({ fresh with leadRem := 1 }, true) := by
  rfl
/-- R148: T1, SYNC2: the remainder 5 is kept. -/
theorem test_advance_sync2 :
    ({ inData 7 2 10 with sync2Pend := true } : Timeline).advance t1 oneBlock =
      .ok (inData 7 2 5, true) := by rfl
/-- R149: after bit 0 the next byte. -/
theorem test_advance_next_byte :
    (inData 0 1 10).advance t1 oneBlock = .ok ({ inData 7 2 0 with off := 1 }, true) := by rfl
/-- R143, R151: byte 0xB0 reads long, short, long, long, short, short, short, short. -/
theorem test_dur_msb_first :
    ([7, 6, 5, 4, 3, 2, 1, 0].map fun b =>
      ((inData b 2 0).dur Config.default (Memory.ofBytes [0x01, 0x00, 0xB0])).toOption) =
      [some 1710, some 855, some 1710, some 1710, some 855, some 855, some 855, some 855] := by decide
/-- V-B5: T2 reaches the budget 10 and does not commit; from 10 it reaches 17, commits, leaves 7. -/
theorem test_record_strict :
    (let b := Border.resetWith t2
     [(({ b with bacc := 3 }).record t2 false .plus 1 6).1,
       (({ b with bacc := 10, line := 6 }).record t2 false .plus 1 6).1].map
         fun r => (r.bacc, r.line, r.buf[6]?)) = [(10, 0, some 7), (7, 7, some 6)] := by decide +kernel
/-- R215: the wrap from 311 copies `buf` and raises `fr`; with `fin` it does not. -/
theorem test_record_wrap :
    (let b := { (Border.resetWith t1) with bacc := 25, line := 311 }
     [b.record t1 false .minus 2 5, b.record t1 true .minus 2 5].map
       fun r => (r.1.line, r.1.fr, r.2.map Event.code)) = [(0, true, [0x02]), (0, false, [])] := by
  decide +kernel
/-- R213 to R215 with `N_LINES` 4 and `N_STORED` 2: line 1 is stored, line 3 is not and wraps. -/
theorem test_record_other_frame :
    (let c := { t1 with nLines := 4, nStored := 2 }
     let b := { (Border.resetWith c) with bacc := 25 }
     [({ b with line := 1 }).record c false .plus 2 5, ({ b with line := 3 }).record c false .plus 2 5].map
       fun r => (r.1.line, r.1.buf, r.2)) = [(2, [7, 5], []), (0, [7, 7], [.frame [7, 7]])] := by decide
/-- R213: a scanline past 255 is counted and not stored. -/
theorem test_record_unstored :
    (({ (Border.resetWith t1) with bacc := 25, line := 256 }).record t1 false .plus 2 5).1.buf =
      (Border.resetWith t1).buf := by decide +kernel
/-- V-F1, step 6. -/
theorem test_filter :
    Binary64.filterStep (Binary64.ofBits 0x3FB9933333333334) (Binary64.ofBits 0xBFB999999999999A) =
      Binary64.ofBits 0xBFA99CCCCCCCCCCE := by decide +kernel
/-- R9: a tie goes to the even significand. -/
theorem test_round_ties_to_even :
    Binary64.round false (2 ^ 54 + 2) 1 = .finite false (2 ^ 52) 1 ∧
      Binary64.round false (2 ^ 54 + 6) 1 = .finite false (2 ^ 52 + 2) 1 := by decide +kernel
/-- V-L1-2. -/
theorem test_checksum :
    checksum 0xFF [0x01, 0x02, 0x03] = 0xFF ∧
    checksum 0x00 [0x03, 0x54, 0x45, 0x53, 0x54, 0x20, 0x20, 0x20, 0x20, 0x20, 0x20, 0x03, 0x00, 0x00,
      0x40, 0x80, 0x00] = 0xD6 := by decide
/-- V-A2. -/
theorem test_builder :
    containerBytes [(0xFF, [])] = [0x02, 0x00, 0xFF, 0xFF] ∧
    containerBytes [(0xFF, [0x01, 0x02, 0x03])] = [0x05, 0x00, 0xFF, 0x01, 0x02, 0x03, 0xFF] := by
  decide
/-- R103, R104: lines of text. -/
theorem test_assemble :
    assembleLine "ATTACH [01 00 FF] ; one block".toList =
      some [.command 0x0002 [0x01, 0x00, 0xFF]] ∧
    assembleLine "RDSNAP 0xFF".toList = some [.command 0xFF06 []] ∧
    assembleLine "SAMPLE*3".toList = some (List.replicate 3 (.command 0x0001 [])) ∧
    assembleLine "ATTACHBLK (0xFF, []), (0x00, [01])".toList =
      some [.command 0x0002 [0x02, 0x00, 0xFF, 0xFF, 0x03, 0x00, 0x00, 0x01, 0x01]] ∧
    assembleLine "RDSNAP 256".toList = none := by decide +kernel

/-! ### Witnesses: for each statement with hypotheses, concrete values that meet all of them -/

/-- With one input pending. -/
def given (s : State) (i : Input) : State := { s with inputs := [i] }

/-- T1 in the pause of a second block. -/
def inPause : Timeline := { fresh with pausePend := true }

/-- T1 in the sync pulses. -/
def inSync1 : Timeline := { fresh with leadRem := 0 }
def inSync2 : Timeline := { fresh with leadRem := 0, sync1Pend := false }

/-- A timeline whose payload is played out. -/
def played : Timeline := { inData 7 2 0 with off := 1 }

theorem fresh_inv : fresh.Inv t1 oneBlock 0 0 where
  len_read := by decide
  len_pos := by decide
  fits := by decide
  base_eq := by decide
  intact := by decide
  active := by decide
  pause_first := by decide
  lead_first := by decide
  sync1_first := by decide
  sync2_first := by decide
  lead_le := ⟨0xFF, by decide⟩
  in_time := ⟨20, by rfl, by decide⟩

/-- One tick before the last flip of the block. -/
theorem inData_inv : (inData 0 1 19).Inv t1 oneBlock 0 0 where
  len_read := by decide
  len_pos := by decide
  fits := by decide
  base_eq := by decide
  intact := by decide
  active := by decide
  pause_first := by decide
  lead_first := by decide
  sync1_first := by decide
  sync2_first := by decide
  lead_le := ⟨0xFF, by decide⟩
  in_time := ⟨20, by rfl, by decide⟩

/-- The invariant of T1 with a container, given that of its timeline. -/
theorem attached_inv (bidx : Nat) (tl : Option Timeline) (pol : Polarity) (h : bidx ≤ 1)
    (ht : ∀ t, tl = some t → ∃ p, [0][bidx]? = some p ∧ t.Inv t1 oneBlock bidx p) :
    (attached bidx tl false pol).Inv where
  cfg_wf := by show t1.wf = true; decide
  no_fault := rfl
  cont_wf := by show oneBlock.wf = true; decide
  cont_fits := rfl
  blk_walk := by show walk oneBlock.bytes = some [0]; decide
  bidx_le := h
  detached := fun e => by cases e
  finished := fun e => by cases e
  timeline := ht
  line_lt := by show (0 : BitVec 9).toNat < t1.nLines; decide
  bacc_le := Nat.zero_le _
  buf_length := List.length_replicate
  snap_length := List.length_replicate
  filt_valid := by show Binary64.posZero.valid = true; decide

theorem start_inv : (attached 0 none false .plus).Inv :=
  attached_inv 0 none .plus (by decide) (fun _ e => by cases e)

theorem playing_inv : (attached 0 (some fresh) false .minus).Inv :=
  attached_inv 0 (some fresh) .minus (by decide) fun _ e => ⟨0, rfl, by cases e; exact fresh_inv⟩

theorem witness_ResetWritesTableValues :
    (given (attached 1 none true .minus) .reset).cfg.wf = true ∧
      (given (attached 1 none true .minus) .reset).inputs = [.reset] := by decide
theorem witness_ResetMeetsInvariant : t1.wf = true ∧ Config.default.wf = true := by decide
theorem witness_StepRunsDecodedCommand :
    (given State.reset (.command 0xFF06 [])).cfg.wf = true ∧
      (given State.reset (.command 0xFF06 [])).faulted = false ∧
      (given State.reset (.command 0xFF06 [])).inputs = [.command 0xFF06 []] ∧
      decode 0xFF06 [] = .ok (.readSnap 255) := by decide
/-- The first and the last reserved `OP`, and a nonzero `IMM8` on the first and the last `OP` that
takes none. -/
theorem witness_ReservedWordIsRefused :
    (given State.reset (.command 0x0007 [])).cfg.wf = true ∧
    0x07 ≤ ((0x0007 : Word).extractLsb' 0 8).toNat ∧ 0x07 ≤ ((0x00FF : Word).extractLsb' 0 8).toNat ∧
    (((0x0100 : Word).extractLsb' 0 8).toNat ≤ 0x05 ∧ (0x0100 : Word).extractLsb' 8 8 ≠ 0) ∧
    (((0xFF05 : Word).extractLsb' 0 8).toNat ≤ 0x05 ∧ (0xFF05 : Word).extractLsb' 8 8 ≠ 0) := by
  decide
theorem witness_DecodeOfEncodeIsCommand :
    Instr.wf (.readSnap 255) = true ∧ Instr.wf (.attach []) = true := by decide
theorem witness_DecodedWordIsItsCommandsWord :
    decode 0x0002 [0x00] = .ok (.attach [0x00]) ∧ decode 0x0106 [] = .ok (.readSnap 1) ∧
      decode 0x0106 [] ≠ .error (.reserved 0x0106) ∧ decode 0x0007 [] = .error (.reserved 0x0007) := by
  decide
theorem witness_StatusBitsShowState :
    (attached 0 none false .plus).tl = none ∧ (attached 0 (some fresh) false .plus).tl = some fresh ∧
    inPause.pausePend = true ∧ (fresh.pausePend = false ∧ 0 < fresh.leadRem.toNat) ∧
    (inSync1.pausePend = false ∧ inSync1.leadRem.toNat = 0 ∧ inSync1.sync1Pend = true) ∧
    (inSync2.pausePend = false ∧ inSync2.leadRem.toNat = 0 ∧ inSync2.sync1Pend = false ∧
      inSync2.sync2Pend = true) ∧
    ((inData 7 2 0).pausePend = false ∧ (inData 7 2 0).leadRem.toNat = 0 ∧
      (inData 7 2 0).sync1Pend = false ∧ (inData 7 2 0).sync2Pend = false ∧
      (inData 7 2 0).off.toNat < (inData 7 2 0).len.toNat) := by decide
theorem witness_ReadSnapAnswersEntry :
    (0x0006 : Word).extractLsb' 0 8 = 0x06 ∧ (0xFF06 : Word).extractLsb' 0 8 = 0x06 ∧
    State.reset.cfg.nStored = 256 ∧ State.reset.border.snap.length = State.reset.cfg.nStored :=
  ⟨by decide, by decide, rfl, List.length_replicate⟩
/-- The last entry and the first index past it, with four entries stored. -/
theorem witness_ReadSnapCompletesInAnyConfiguration :
    (State.resetWith { t1 with nStored := 4 }).border.snap[(3 : Byte).toNat]? = some 7 ∧
      (State.resetWith { t1 with nStored := 4 }).border.snap[(4 : Byte).toNat]? = none := by decide
/-- One byte too many; exactly the limit, malformed and accepted. -/
theorem witness_AttachAcceptsOrChangesNothing :
    ({ t1 with contMax := some 2 } : Config).contMax = some 2 ∧
    2 < ([0x01, 0x00, 0xFF] : List Byte).length ∧ ([0x00, 0x00] : List Byte).length ≤ 2 ∧
    walk [0x00, 0x00] = none ∧ ([] : List Byte).length ≤ 2 ∧ walk [] = some [] ∧
    t1.contMax = none ∧ walk [0x01, 0x00, 0xFF] = some [0] := by decide
theorem witness_LengthFieldIsLittleEndian :
    oneBlock.read 1 = some 0x00 ∧ oneBlock.read (1 + 1) = some 0xFF := by decide
theorem witness_WalkAcceptsExactlyTilings :
    walk [0x01, 0x00, 0xFF] = some [0] ∧ [0x01, 0x00, 0xFF] = tile [[0xFF]] ∧
      [0] = starts 0 [[(0xFF : Byte)]] ∧ [] = tile [] := by decide
theorem witness_ContainerViewsAgree :
    (attached 0 none false .plus).Inv ∧ (attached 0 none false .plus).blk[0]? = some 0 :=
  ⟨start_inv, by decide⟩
theorem witness_NewTimelineStartsBlock :
    t1.wf = true ∧ oneBlock.read16 0 = some 1 ∧ oneBlock.read (0 + 2) = some 0xFF ∧
    (Memory.ofBytes [0x01, 0x00, 0x00]).read16 0 = some 1 ∧
    (Memory.ofBytes [0x01, 0x00, 0x00]).read (0 + 2) = some 0x00 := by decide
/-- The first block, and a later one. -/
theorem witness_NewTimelinePhaseIsPauseOrLead :
    t1.wf = true ∧ newTimeline t1 oneBlock 0 0 = .ok fresh ∧
      newTimeline t1 oneBlock 1 0 = .ok inPause :=
  ⟨by decide, rfl, rfl⟩
theorem witness_IntervalDurationByPhase :
    inPause.phase = .pause ∧ fresh.phase = .lead ∧ inSync1.phase = .sync1 ∧ inSync2.phase = .sync2 ∧
    ((inData 0 2 0).phase = .data ∧
      oneBlock.read ((inData 0 2 0).base + (inData 0 2 0).off.toNat) = some 0xFF) ∧
    played.phase = .complete := by decide
/-- One unit short of the threshold and exactly at it, in every phase. -/
theorem witness_AdvanceMakesOneEventAtThreshold :
    fresh.intact = true ∧ (fresh.dur t1 oneBlock).toOption = some 20 ∧
    9 + t1.clkHz < 20 * t1.srHz ∧ 20 * t1.srHz ≤ 10 + t1.clkHz ∧
    inPause.intact = true ∧ (inPause.dur t1 oneBlock).toOption = some 20 ∧
    inSync1.intact = true ∧ (inSync1.dur t1 oneBlock).toOption = some 10 ∧
    10 * t1.srHz ≤ 0 + t1.clkHz ∧
    inSync2.intact = true ∧ (inSync2.dur t1 oneBlock).toOption = some 15 ∧
    15 * t1.srHz ≤ 5 + t1.clkHz ∧
    ((inData 7 2 10).intact = true ∧ ((inData 7 2 10).dur t1 oneBlock).toOption = some 20 ∧
      (inData 7 2 10).phase = .data ∧ (inData 7 2 10).hc = 2) ∧
    ((inData 0 1 10).intact = true ∧ ((inData 0 1 10).dur t1 oneBlock).toOption = some 20 ∧
      (inData 0 1 10).phase = .data ∧ (inData 0 1 10).hc = 1 ∧ (inData 0 1 10).bitx = 0) ∧
    ((inData 1 1 10).hc = 1 ∧ (inData 1 1 10).bitx ≠ 0) ∧
    (({ fresh with leadRem := 1 } : Timeline).phase = .lead ∧
      ({ fresh with leadRem := 1 } : Timeline).sync1Pend = true) ∧ inSync1.sync2Pend = true ∧
    inSync2.off.toNat < inSync2.len.toNat ∧
    (inData 0 1 10).off.toNat + 1 = (inData 0 1 10).len.toNat := by decide
theorem witness_AdvanceKeepsTimelineInTime :
    t1.wf = true ∧ oneBlock.wf = true ∧ fresh.Inv t1 oneBlock 0 0 ∧
      (inData 0 1 19).Inv t1 oneBlock 0 0 :=
  ⟨by decide, by decide, fresh_inv, inData_inv⟩
/-- At 0 steps and at the step of the first event. -/
theorem witness_TimelineTimeIsExact :
    t1.wf = true ∧ oneBlock.wf = true ∧ newTimeline t1 oneBlock 0 0 = .ok fresh ∧
    0 < fresh.len.toNat ∧ 0 + 2 + fresh.len.toNat ≤ oneBlock.length ∧
    advanceN t1 oneBlock 0 fresh = .ok (fresh, 0) ∧
    advanceN t1 oneBlock 2 fresh = .ok ({ fresh with leadRem := 1 }, 1) ∧
    (fresh.dur t1 oneBlock).toOption = some 20 :=
  ⟨by decide, by decide, rfl, by decide, by decide, rfl, rfl, by decide⟩
/-- V-E3: the block completes in SAMPLE 39. -/
theorem witness_BlockCompletesOnTime :
    newTimeline t1 oneBlock 0 0 = .ok fresh ∧ 0 < fresh.len.toNat ∧
    0 + 2 + fresh.len.toNat ≤ oneBlock.length ∧ blockSamples t1 oneBlock 0 0 fresh.len.toNat = 39 :=
  ⟨rfl, by decide, by decide, by decide⟩
theorem witness_PlayedBitsAreHeardMsbFirst :
    t1.wf = true ∧ (inData 7 2 0).phase = .data ∧
    oneBlock.read ((inData 7 2 0).base + (inData 7 2 0).off.toNat) = some 0xFF ∧
    ((inData 7 2 0).dur t1 oneBlock).toOption = some 20 ∧ (inData 7 2 0).bitx = 7 ∧
    (inData 7 2 0).hc = 2 ∧ 0 < 16 ∧ 15 < 16 := by decide
theorem witness_SampleIsSilentWithoutContainer : State.reset.att = false := by decide
theorem witness_SampleHoldsLevelWhenFinished :
    ((attached 1 none true .plus).att = true ∧ (attached 1 none true .plus).fin = true ∧
      (attached 1 none true .plus).pol = .plus) ∧ (attached 1 none true .minus).pol = .minus := by
  decide
theorem witness_SampleFinishesAfterLastBlock :
    (attached 1 none false .minus).att = true ∧ (attached 1 none false .minus).fin = false ∧
    (attached 1 none false .minus).tl = none ∧
    (attached 1 none false .minus).nblk ≤ (attached 1 none false .minus).bidx := by decide
theorem witness_SampleStartsNextBlock :
    (attached 0 none false .plus).tl = none ∧ (attached 0 none false .plus).blk[0]? = some 0 ∧
    newTimeline t1 oneBlock 0 0 = .ok fresh ∧
    fresh.advance t1 oneBlock = .ok ({ fresh with acc := 10 }, false) :=
  ⟨rfl, rfl, rfl, rfl⟩
/-- A pause with no flip, a lead tone with a flip, the last flip of the data. -/
theorem witness_SampleAdvancesTimeline :
    inPause.phase = .pause ∧ inPause.advance t1 oneBlock = .ok ({ inPause with acc := 10 }, false) ∧
    ({ fresh with acc := 10 } : Timeline).phase = .lead ∧
    ({ fresh with acc := 10 } : Timeline).advance t1 oneBlock = .ok ({ fresh with leadRem := 1 }, true) ∧
    (inData 0 1 10).phase = .data ∧ (inData 0 1 10).advance t1 oneBlock = .ok (played, true) ∧
    played.phase = .complete :=
  ⟨by decide, rfl, by decide, rfl, by decide, rfl, by decide⟩
theorem witness_SampleAlwaysResponds :
    (attached 0 none false .plus).Inv ∧ (attached 0 (some fresh) false .minus).Inv :=
  ⟨start_inv, playing_inv⟩
theorem witness_SampleFaultsOnViolations :
    (attached 0 (some played) false .plus).tl = some played ∧ played.phase = .complete ∧
    ((inData 7 0 0).hc ≠ 1 ∧ (inData 7 0 0).hc ≠ 2) ∧ ((inData 7 3 0).hc ≠ 1 ∧ (inData 7 3 0).hc ≠ 2) ∧
    ({ played with off := 2 } : Timeline).len.toNat < 2 ∧
    ((inData 7 2 0).phase = .data ∧ (inData 7 2 0).hc = 2 ∧
      Memory.read [] ((inData 7 2 0).base + (inData 7 2 0).off.toNat) = none) := by decide
theorem witness_FinishedOutputIsFrozen :
    (attached 1 none true .minus).att = true ∧ (attached 1 none true .minus).fin = true := by decide
/-- V-E3: 39 SAMPLEs, and DONE in the 40th. -/
theorem witness_PlaybackTakesItsClosedForm :
    (attached 0 none false .plus).Inv ∧ (attached 0 none false .plus).att = true ∧
    (attached 0 none false .plus).fin = false ∧ (attached 0 none false .plus).tl = none ∧
    (attached 0 none false .plus).bidx = 0 ∧ playSamplesFrom t1 oneBlock 0 [0] = 39 :=
  ⟨start_inv, rfl, rfl, rfl, rfl, by decide⟩
theorem witness_RoundingIsNearestEven :
    Binary64.round false (2 ^ 54 + 2) 1 = .finite false (2 ^ 52) 1 ∧
    Binary64.valid (.finite false (2 ^ 52 + 1) 1) = true ∧
    Binary64.round true 3 1 = .finite true 2 0 ∧ Binary64.valid (.finite true 1 0) = true := by
  decide +kernel
theorem witness_FilterKeepsSignAndBound :
    Binary64.valid (.finite true 0x1999999999999A 1018) = true ∧
    0x1999999999999A * 2 ^ 1018 ≤ 0x1999999999999A * 2 ^ 1018 ∧
    Binary64.valid (.finite false 0 0) = true ∧ 0 * 2 ^ 0 ≤ 0x1999999999999A * 2 ^ 1018 := by
  decide +kernel
/-- At the budget exactly and one past it, at scanlines 0, 255, 256 and 311. -/
theorem witness_BorderRecordCommitsOneLine :
    t1.wf = true ∧ (Border.resetWith t1).buf.length = t1.nStored ∧ 310 + 1 < t1.nLines ∧
    311 + 1 = t1.nLines ∧
    15 + t1.clkHz ≤ t1.lineT * t1.srHz ∧ t1.lineT * t1.srHz < 16 + t1.clkHz ∧
    ([0, 255, 256, 311] : List (BitVec 9)).all (fun l => decide (l.toNat < t1.nLines)) = true :=
  ⟨by decide, List.length_replicate, by decide, by decide, by decide, by decide, by decide⟩
theorem witness_CommitTimingIsExact :
    t1.wf = true ∧ (Border.resetWith t1).line = 0 ∧ (Border.resetWith t1).bacc = 0 := by decide
theorem witness_EveryStepKeepsInvariant :
    (attached 0 (some fresh) false .minus).Inv ∧
      step (attached 0 (some fresh) false .minus) = .next (attached 0 (some fresh) false .minus) :=
  ⟨playing_inv, rfl⟩
theorem witness_NoStepStopsFromInvariant : (attached 0 none false .plus).Inv := start_inv
theorem witness_EventListsOfAStep :
    (got (exec .sample (attached 1 none false .plus))).isSome = true ∧
      (got (exec .readStatus State.reset)).isSome = true := by decide +kernel
/-- The terminal snapshot over a snapshot that was not idle. -/
theorem witness_SnapChangesOnlyWithFrame :
    (let s := { attached 1 none false .plus with
      border := { (Border.resetWith t1) with snap := List.replicate 256 2 } }
     (got (exec .sample s)).map fun t => decide (t.border.snap ≠ s.border.snap)) = some true := by
  decide +kernel
theorem witness_OnlySampleMovesTime :
    Instr.ackFrame ≠ .sample ∧ (got (exec .ackFrame State.reset)).isSome = true ∧
      (∀ B, Instr.ackFrame ≠ .attach B) ∧ Instr.ackFrame ≠ .detach :=
  ⟨by decide, by decide, fun _ e => (by cases e), by decide⟩
theorem witness_SampleLeavesContainer :
    (got (exec .sample (attached 0 none false .plus))).isSome = true ∧
      (attached 1 none true .plus).fin = true := by decide +kernel
theorem witness_ConfigurationAndMarksPersist :
    (got (step { given State.reset (.command 0 []) with refusedSeen := true })).isSome = true ∧
      ∀ rest, (given State.reset (.command 0 [])).inputs ≠ .reset :: rest :=
  ⟨by decide, fun _ e => by cases e⟩
/-- One configuration for each way to fail, at the boundary. -/
theorem witness_IllFormedConfigurationIsRefused :
    { t1 with pauseT := 0 }.pauseT = 0 ∧ { t1 with leadT := 0 }.leadT = 0 ∧
    { t1 with sync1T := 0 }.sync1T = 0 ∧ { t1 with sync2T := 0 }.sync2T = 0 ∧
    { t1 with bit0T := 0 }.bit0T = 0 ∧ { t1 with bit1T := 0 }.bit1T = 0 ∧
    { t1 with lineT := 0 }.lineT = 0 ∧ { t1 with clkHz := 0 }.clkHz = 0 ∧
    { t1 with srHz := 0 }.srHz = 0 ∧ 9 * t1.srHz < t1.clkHz ∧
    { t1 with leadNHdr := 0 }.leadNHdr = 0 ∧ 65535 < { t1 with leadNHdr := 65536 }.leadNHdr ∧
    { t1 with leadNData := 0 }.leadNData = 0 ∧ 65535 < { t1 with leadNData := 65536 }.leadNData ∧
    { t1 with nStored := 313 }.nLines < { t1 with nStored := 313 }.nStored ∧
    { t1 with bit1T := 10 }.bit1T ≤ { t1 with bit1T := 10 }.bit0T := by decide
theorem witness_FaultStateIsFinal :
    (attached 0 (some played) false .plus).cfg.wf = true ∧
    (∀ rest, (attached 0 none false .plus).inputs ≠ .reset :: rest) ∧
    faultOf (step (given (attached 0 (some played) false .plus) (.command 0x0001 []))) =
      some .invariant :=
  ⟨by decide, fun _ e => (by cases e), by decide⟩
theorem witness_IdleStepHoldsState :
    State.reset.cfg.wf = true ∧ State.reset.faulted = false ∧ State.reset.inputs = [] := by decide
/-- No data bytes, and the most a length field can count. -/
theorem witness_BuiltContainerIsAccepted :
    blockFits [] = true ∧ blockFits (List.replicate 65533 0x00) = true := by
  constructor
  · rfl
  · unfold blockFits
    rw [List.length_replicate]
    decide
theorem witness_ChecksumDetectsOneBit : 0 < 8 ∧ 7 < 8 := by decide

end Sys2Proof.Tests
end

/-! PROOFS. STATUS as a view of the state (10_state.md R44, 30_encoding.md R98). -/

namespace Sys2Proof.Machine

/-! ### The fields of STATUS -/

/-- The layout of R44 as one `concat` per bit, which carries the library's rules for single bits. -/
theorem State.status_eq_concat (s : State) :
    s.status = ((((s.phaseField.cons s.pol.bit).concat s.tl.isSome).concat
      s.border.fr).concat s.fin).concat s.att := rfl

theorem State.status_bit_att (s : State) : s.status.getLsbD 0 = s.att := by
  simp only [s.status_eq_concat, BitVec.getLsbD_concat_zero]

theorem State.status_bit_fin (s : State) : s.status.getLsbD 1 = s.fin := by
  simp only [s.status_eq_concat, BitVec.getLsbD_concat_succ, BitVec.getLsbD_concat_zero]

theorem State.status_bit_fr (s : State) : s.status.getLsbD 2 = s.border.fr := by
  simp only [s.status_eq_concat, BitVec.getLsbD_concat_succ, BitVec.getLsbD_concat_zero]

theorem State.status_bit_act (s : State) : s.status.getLsbD 3 = s.tl.isSome := by
  simp only [s.status_eq_concat, BitVec.getLsbD_concat_succ, BitVec.getLsbD_concat_zero]

/-- Above the four flags, bits 4 and up are POL and PHASE. -/
theorem State.status_above_flags (s : State) (i : Nat) :
    s.status.getLsbD (i + 4) = (s.phaseField.cons s.pol.bit).getLsbD i := by
  simp only [s.status_eq_concat, BitVec.getLsbD_concat_succ]

theorem State.status_bit_pol (s : State) : s.status.getLsbD 7 = s.pol.bit :=
  (s.status_above_flags 3).trans (by rw [BitVec.getLsbD_cons, if_pos rfl])

theorem State.status_phase (s : State) : s.status.extractLsb' 4 3 = s.phaseField := by
  refine BitVec.eq_of_getLsbD_eq fun i hi => ?_
  calc (s.status.extractLsb' 4 3).getLsbD i
      = s.status.getLsbD (i + 4) := by simp [hi, Nat.add_comm]
    _ = (s.phaseField.cons s.pol.bit).getLsbD i := s.status_above_flags i
    _ = s.phaseField.getLsbD i := by rw [BitVec.getLsbD_cons, if_neg hi.ne]

/-! ### Polarity and phase code -/

theorem Polarity.bit_iff (p : Polarity) : p.bit = true ↔ p = .plus := by
  cases p <;> decide

/-- Codes 6 and 7 are never produced (R44). -/
theorem Phase.code_le_five (p : Phase) : p.code.toNat ≤ 5 := by
  cases p <;> decide

theorem State.phaseField_none {s : State} (h : s.tl = none) : s.phaseField = 0 := by
  rw [State.phaseField, h]

theorem State.phaseField_some {s : State} {t : Timeline} (h : s.tl = some t) :
    s.phaseField = t.phase.code := by
  rw [State.phaseField, h]

theorem State.phaseField_le_five (s : State) : s.phaseField.toNat ≤ 5 := by
  cases h : s.tl with
  | none => rw [State.phaseField_none h]; decide
  | some t => rw [State.phaseField_some h]; exact t.phase.code_le_five

/-- In a phase `p`, the field holds the code of `p` (R98). -/
theorem State.status_phase_of_phase {s : State} {t : Timeline} {p : Phase} (h : s.tl = some t)
    (hp : t.phase = p) : s.status.extractLsb' 4 3 = p.code := by
  rw [State.status_phase, State.phaseField_some h, hp]

/-- R44: the reset value of STATUS. -/
theorem State.resetWith_status (c : Config) : (State.resetWith c).status = 0x80 :=
  calc (State.resetWith c).status
      = State.reset.status := rfl  -- the configuration does not enter STATUS
    _ = 0x80 := by decide

/-- Settles O10: each bit of STATUS by its field lemma, and the phase code by the conditions that
fix the phase (R37). -/
theorem statusBitsShowState : Obligations.StatusBitsShowState := by
  refine ⟨fun s => ⟨s.status_bit_att, s.status_bit_fin, s.status_bit_fr, s.status_bit_act, ?pol, ?bound, ?idle,
    fun t ht => ⟨fun pause => ?pause, fun pause lead => ?lead, fun pause lead sync1 => ?sync1,
      fun pause lead sync1 sync2 => ?sync2, fun pause lead sync1 sync2 data => ?data⟩⟩,
    State.resetWith_status⟩
  case pol => rw [s.status_bit_pol, s.pol.bit_iff]
  case bound => rw [s.status_phase]; exact s.phaseField_le_five
  case idle => intro h; rw [s.status_phase, State.phaseField_none h]
  case pause => exact State.status_phase_of_phase ht (t.phase_pause_iff.2 pause)
  case lead => exact State.status_phase_of_phase ht (t.phase_lead_iff.2 ⟨pause, lead⟩)
  case sync1 => exact State.status_phase_of_phase ht (t.phase_sync1_iff.2 ⟨pause, lead, sync1⟩)
  case sync2 =>
    exact State.status_phase_of_phase ht (t.phase_sync2_iff.2 ⟨pause, lead, sync1, sync2⟩)
  case data =>
    exact State.status_phase_of_phase ht (t.phase_data_iff.2 ⟨pause, lead, sync1, sync2, data⟩)

end Sys2Proof.Machine

/-! PROOFS. Reserved words: what the decoder answers and what the step does (30_encoding.md R94,
R105; R233). -/

namespace Sys2Proof

/-- R94, the `OP` range: no row of R93 has an `OP` past 0x06, whatever `IMM8` holds. -/
theorem decode_of_seven_le_op {w : Word} (h : 0x07 ≤ (wordOp w).toNat) (side : List Byte) :
    decode w side = .error (.reserved w) := by
  have hop : ∀ k : Byte, k.toNat < 0x07 → wordOp w ≠ k := fun k hk e => by
    rw [e] at h
    omega
  simp [decode, hop]

/-- R94, the `IMM8` part: a nonzero `IMM8` has a meaning beside `OP` 0x06 only. -/
theorem decode_of_imm_ne_zero {w : Word} (hop : wordOp w ≠ 0x06) (himm : wordImm w ≠ 0x00)
    (side : List Byte) : decode w side = .error (.reserved w) := by
  rw [decode, if_neg hop, if_neg himm]

end Sys2Proof

namespace Sys2Proof.Machine

/-- Outside the fault state, a step whose next input is a command takes it and runs it (R6, R90). -/
theorem step_of_command {s : State} {w : Word} {side : List Byte} {rest : List Input}
    (hwf : s.cfg.wf = true) (hrun : s.faulted = false) (hin : s.inputs = .command w side :: rest) :
    step s = stepCommand w side (s.takeInput rest) := by
  simp [step, hwf, hin, hrun]

theorem stepCommand_of_decode_error {w : Word} {side : List Byte} {r : Reject}
    (h : decode w side = .error r) (s : State) : stepCommand w side s = .next s.refuse := by
  simp only [stepCommand, h]

/-- Settles O4: both kinds of reserved word fail to decode, and such a command is refused on the state
with that one input taken. -/
theorem reservedWordIsRefused : Obligations.ReservedWordIsRefused := by
  intro s w side rest hwf hrun hin hres
  have hdec : decode w side = .error (.reserved w) := by
    rcases hres with hop | ⟨hop, himm⟩
    · exact decode_of_seven_le_op hop side
    · have hne : wordOp w ≠ 0x06 := fun e => absurd (e ▸ hop : (0x06 : Byte).toNat ≤ 0x05) (by decide)
      exact decode_of_imm_ne_zero hne himm side
  calc step s
      = stepCommand w side (s.takeInput rest) := step_of_command hwf hrun hin
    _ = .next (s.takeInput rest).refuse := stepCommand_of_decode_error hdec _

end Sys2Proof.Machine

/-! PROOFS. ATTACH and DETACH (40_container.md R120, R122 to R124). -/

namespace Sys2Proof

/-! ### Their words (30_encoding.md R93) -/

theorem decode_attach_word (side : List Byte) : decode 0x0002 side = .ok (.attach side) := rfl

theorem decode_detach_word (side : List Byte) : decode 0x0003 side = .ok .detach := rfl

end Sys2Proof

namespace Sys2Proof.Machine

/-! ### The capacity check -/

theorem overCapacity_of_lt {c : Config} {n limit : Nat} (hc : c.contMax = some limit)
    (h : limit < n) : overCapacity c n = true := by
  rw [overCapacity, hc]
  exact decide_eq_true h

theorem overCapacity_eq_false_iff {c : Config} {n : Nat} :
    overCapacity c n = false ↔ ∀ limit, c.contMax = some limit → n ≤ limit := by
  rw [overCapacity]
  cases c.contMax with
  | none => simp
  | some limit => simp

/-! ### One equation for each answer of ATTACH -/

section

variable {B : List Byte} {s : State}

theorem execAttach_of_overCapacity (h : overCapacity s.cfg B.length = true) :
    execAttach B s = .next (s.respond .capacity 0x00) := by
  rw [execAttach, if_pos h]

theorem execAttach_of_walk_none (h : overCapacity s.cfg B.length = false) (hw : walk B = none) :
    execAttach B s = .next (s.respond .malformed 0x00) := by
  simp only [execAttach, h, hw, Bool.false_eq_true, if_false]

theorem execAttach_of_walk_some {T : List Nat} (h : overCapacity s.cfg B.length = false)
    (hw : walk B = some T) :
    execAttach B s =
      .next (((s.setContainer true (Memory.ofBytes B) T).restart).respond .ok 0x00) := by
  simp only [execAttach, h, hw, Bool.false_eq_true, if_false]

end

/-- Settles O14: `exec` runs `execAttach`, whose answer is fixed by the capacity check and the walk;
the copy is a load of the bytes from address 0. -/
theorem attachAcceptsOrChangesNothing : Obligations.AttachAcceptsOrChangesNothing := by
  refine ⟨decode_attach_word, fun B => ⟨Memory.wfFrom_load B 0, Memory.load_bytes B 0⟩,
    fun B s => ⟨fun limit hlimit hlt => ?capacity, fun hfits => ?fits⟩⟩
  case capacity => exact execAttach_of_overCapacity (overCapacity_of_lt hlimit hlt)
  case fits =>
    have hcap : overCapacity s.cfg B.length = false := overCapacity_eq_false_iff.2 hfits
    exact ⟨fun hw => execAttach_of_walk_none hcap hw, fun T hw => execAttach_of_walk_some hcap hw⟩

/-- Settles O13: DETACH has one path, which empties the container and restarts the encoder. -/
theorem detachEmptiesEncoder : Obligations.DetachEmptiesEncoder :=
  ⟨decode_detach_word, fun s =>
    show execDetach s = .next (((s.setContainer false [] []).restart).respond .ok 0x00) from rfl⟩

end Sys2Proof.Machine

/-! PROOFS. The walk and the tilings into length-prefixed blocks (40_container.md R121). -/

namespace Sys2Proof

/-! ### The two bytes of a length field -/

theorem littleEndianBytes_two (n : Nat) :
    littleEndianBytes 2 n = [BitVec.ofNat 8 n, BitVec.ofNat 8 (n / 256)] := rfl

/-- Read high byte first, the bytes of a 16-bit number are that number (R62). -/
theorem toNat_littleEndian {n : Nat} (h : n ≤ 65535) :
    (BitVec.ofNat 8 (n / 256) ++ BitVec.ofNat 8 n : BitVec 16).toNat = n := by
  rw [append_toNat, BitVec.toNat_ofNat, BitVec.toNat_ofNat]
  omega

/-- The bytes of the number two bytes make are those two bytes. -/
theorem littleEndianBytes_append (hi lo : Byte) :
    littleEndianBytes 2 (hi ++ lo : BitVec 16).toNat = [lo, hi] := by
  have hsum := append_toNat hi lo
  have hlo_lt := lo.isLt
  have hlo : BitVec.ofNat 8 (hi ++ lo : BitVec 16).toNat = lo :=
    BitVec.eq_of_toNat_eq (by rw [BitVec.toNat_ofNat]; omega)
  have hhi : BitVec.ofNat 8 ((hi ++ lo : BitVec 16).toNat / 256) = hi :=
    BitVec.eq_of_toNat_eq (by rw [BitVec.toNat_ofNat]; omega)
  rw [littleEndianBytes_two, hlo, hhi]

end Sys2Proof

namespace Sys2Proof.Machine

/-! ### One iteration of the walk over the bytes that are left -/

section

variable {B : List Byte} {p : Nat}

/-- With no bytes left, the walk ends. -/
theorem walkFrom_of_drop_nil (fuel : Nat) (h : B.drop p = []) :
    walkFrom B (fuel + 1) p = some [] := by
  rw [walkFrom, if_neg (Nat.not_lt.2 (List.drop_eq_nil_iff.1 h))]

/-- With a block in front, the walk lists its address and goes on behind it. -/
theorem walkFrom_of_drop_block (fuel : Nat) {payload rest : List Byte} (hpos : 1 ≤ payload.length)
    (hmax : payload.length ≤ 65535)
    (h : B.drop p = littleEndianBytes 2 payload.length ++ payload ++ rest) :
    walkFrom B (fuel + 1) p =
      (walkFrom B fuel (p + 2 + payload.length)).map (p :: ·) := by
  rw [littleEndianBytes_two] at h
  have hlen : B.length - p = payload.length + rest.length + 2 := by
    simpa using congrArg List.length h
  have hlo : B[p]? = some (BitVec.ofNat 8 payload.length) := by
    rw [← Nat.add_zero p, ← List.getElem?_drop, h]
    rfl
  have hhi : B[p + 1]? = some (BitVec.ofNat 8 (payload.length / 256)) := by
    rw [← List.getElem?_drop, h]
    rfl
  rw [walkFrom, if_pos (by omega), hlo, hhi]
  simp only [toNat_littleEndian hmax]
  rw [if_neg (by omega), if_neg (by omega)]

/-- A length field with its payload region in the bytes is a block in front of what follows it. -/
theorem drop_eq_block {lo hi : Byte} (hlo : B[p]? = some lo) (hhi : B[p + 1]? = some hi) :
    B.drop p = littleEndianBytes 2 (hi ++ lo : BitVec 16).toNat ++
      (B.drop (p + 2)).take (hi ++ lo : BitVec 16).toNat ++
        B.drop (p + 2 + (hi ++ lo : BitVec 16).toNat) := by
  obtain ⟨hp, rfl⟩ := List.getElem?_eq_some_iff.1 hlo
  obtain ⟨hp1, rfl⟩ := List.getElem?_eq_some_iff.1 hhi
  rw [littleEndianBytes_append, List.append_assoc, ← List.drop_drop (j := p + 2),
    List.take_append_drop, List.drop_eq_getElem_cons hp, List.drop_eq_getElem_cons hp1]
  rfl

/-! ### The walk and the tilings -/

/-- The payload regions a container has: `L` is 1 to 65535 (R64, R121). -/
def PayloadsFit (payloads : List (List Byte)) : Prop :=
  ∀ P ∈ payloads, 1 ≤ P.length ∧ P.length ≤ 65535

/-- Where the walk succeeds, the bytes from `p` on are the blocks it lists. -/
theorem tiling_of_walkFrom {fuel : Nat} {T : List Nat} (h : walkFrom B fuel p = some T) :
    ∃ payloads, PayloadsFit payloads ∧ B.drop p = tile payloads ∧ T = starts p payloads := by
  induction fuel generalizing p T with
  | zero => cases h
  | succ fuel ih =>
    rcases walkFrom_cases h with ⟨hend, rfl⟩ | ⟨lo, hi, T', hlo, hhi, hpos, hfits, hrest, rfl⟩
    · exact ⟨[], List.forall_mem_nil _, List.drop_eq_nil_of_le hend, rfl⟩
    · obtain ⟨payloads, hpayloads, htile, rfl⟩ := ih hrest
      have hlen : ((B.drop (p + 2)).take (hi ++ lo : BitVec 16).toNat).length =
          (hi ++ lo : BitVec 16).toNat := by
        rw [List.length_take, List.length_drop]
        omega
      refine ⟨(B.drop (p + 2)).take (hi ++ lo : BitVec 16).toNat :: payloads,
        List.forall_mem_cons.2 ⟨?_, hpayloads⟩, ?_, ?_⟩
      · have := (hi ++ lo : BitVec 16).isLt
        omega
      · rw [tile, hlen, ← htile]
        exact drop_eq_block hlo hhi
      · rw [starts, hlen]

/-- The walk accepts every tiling and lists where its blocks start; each block takes one unit of the
fuel and at least one byte. -/
theorem walkFrom_of_tiling {payloads : List (List Byte)} {fuel : Nat} (hp : PayloadsFit payloads)
    (h : B.drop p = tile payloads) (hfuel : (tile payloads).length < fuel) :
    walkFrom B fuel p = some (starts p payloads) := by
  induction payloads generalizing p fuel with
  | nil =>
    obtain ⟨fuel, rfl⟩ := Nat.exists_eq_add_one_of_ne_zero (Nat.ne_zero_of_lt hfuel)
    exact walkFrom_of_drop_nil fuel h
  | cons payload payloads ih =>
    obtain ⟨fuel, rfl⟩ := Nat.exists_eq_add_one_of_ne_zero (Nat.ne_zero_of_lt hfuel)
    obtain ⟨⟨hpos, hmax⟩, hp⟩ := List.forall_mem_cons.1 hp
    have hrest : B.drop (p + 2 + payload.length) = tile payloads := by
      rw [Nat.add_assoc, ← List.drop_drop, h, tile]
      exact List.drop_left' (by simp [littleEndianBytes_two]; omega)
    have hless : (tile payloads).length < fuel := by
      simp only [tile, List.length_append] at hfuel
      omega
    rw [walkFrom_of_drop_block fuel hpos hmax h, ih hp hrest hless]
    rfl

end

/-- Settles O17: `walk` is the walk from address 0, where all of the bytes are left. -/
theorem walkAcceptsExactlyTilings : Obligations.WalkAcceptsExactlyTilings := by
  intro B T
  constructor
  · exact fun h => tiling_of_walkFrom (p := 0) h
  · rintro ⟨payloads, hp, rfl, rfl⟩
    exact walkFrom_of_tiling hp rfl (Nat.lt_succ_self _)

end Sys2Proof.Machine

/-! PROOFS. Construction, the interval threshold and the advance of a timeline, equation by equation
(41_timeline.md R140 to R149). -/

namespace Sys2Proof

/-- The check of W4 is one of those of R8. -/
theorem Config.w4_of_wf {c : Config} (h : c.wf = true) : c.w4 = true := by
  simp only [Config.wf, Bool.and_eq_true] at h
  obtain ⟨-, -, -, hw4, -⟩ := h
  exact hw4

end Sys2Proof

namespace Sys2Proof.Machine

/-! ### Construction -/

theorem newTimeline_of_read {c : Config} {m : Memory} {p : Nat} {L : BitVec 16} {flag : Byte}
    (hlen : m.read16 p = some L) (hflag : m.read (p + 2) = some flag) (i : Nat) :
    newTimeline c m i p =
      .ok { pausePend := decide (0 < i), leadRem := leadCount c flag, sync1Pend := true,
            sync2Pend := true, off := 0, bitx := 7, hc := 2, acc := 0, len := L, base := p + 2 } := by
  simp only [newTimeline, hlen, hflag]

/-- Settles O19: construction writes the fields out; a lead count fits its 16 bits by W4. -/
theorem newTimelineStartsBlock : Obligations.NewTimelineStartsBlock := by
  intro c m i p L flag hwf hlen hflag
  have hlead := (leadCount_toNat (Config.w4_of_wf hwf) flag).1
  exact ⟨_, newTimeline_of_read hlen hflag i, rfl, rfl, decide_eq_true_iff, hlead,
    rfl, rfl, rfl, rfl, rfl, rfl⟩

/-! ### The interval threshold -/

section

variable {t : Timeline} (c : Config) (m : Memory)

theorem Timeline.dur_of_pause (h : t.phase = .pause) : t.dur c m = .ok c.pauseT := by
  simp only [Timeline.dur, h]

theorem Timeline.dur_of_lead (h : t.phase = .lead) : t.dur c m = .ok c.leadT := by
  simp only [Timeline.dur, h]

theorem Timeline.dur_of_sync1 (h : t.phase = .sync1) : t.dur c m = .ok c.sync1T := by
  simp only [Timeline.dur, h]

theorem Timeline.dur_of_sync2 (h : t.phase = .sync2) : t.dur c m = .ok c.sync2T := by
  simp only [Timeline.dur, h]

theorem Timeline.dur_of_complete (h : t.phase = .complete) : t.dur c m = .error .invariant := by
  simp only [Timeline.dur, h]

/-- In DATA the threshold is that of the current bit. -/
theorem Timeline.dur_of_data {b : Byte} (h : t.phase = .data)
    (hb : m.read (t.base + t.off.toNat) = some b) : t.dur c m = .ok (bitTicks c b t.bitx.toNat) := by
  simp only [Timeline.dur, h, hb, bitTicks]

end

/-- Settles O20: one equation per phase. -/
theorem intervalDurationByPhase : Obligations.IntervalDurationByPhase := fun c m _ =>
  ⟨Timeline.dur_of_pause c m, Timeline.dur_of_lead c m, Timeline.dur_of_sync1 c m,
    Timeline.dur_of_sync2 c m, fun h _ hb => Timeline.dur_of_data c m h hb,
    Timeline.dur_of_complete c m⟩

/-! ### The events: the three of DATA, and the accumulator's part -/

section

variable {t : Timeline}

/-- The first half-cycle of a bit is spent. -/
theorem Timeline.dataEvent_first_half (hhc : t.hc = 2) : t.dataEvent = { t with hc := 1 } := by
  rw [Timeline.dataEvent, if_pos hhc]

/-- The second half-cycle of bit 0 is spent: the next byte begins. -/
theorem Timeline.dataEvent_last_bit (hhc : t.hc = 1) (hbit : t.bitx = 0) :
    t.dataEvent = { t with hc := 2, bitx := 7, off := t.off + 1 } := by
  rw [Timeline.dataEvent, if_neg (by rw [hhc]; decide), if_pos hbit]

/-- The second half-cycle of a bit above 0 is spent: the next lower bit begins. -/
theorem Timeline.dataEvent_next_bit (hhc : t.hc = 1) (hbit : t.bitx ≠ 0) :
    t.dataEvent = { t with hc := 2, bitx := t.bitx - 1 } := by
  rw [Timeline.dataEvent, if_neg (by rw [hhc]; decide), if_neg hbit]

theorem Timeline.dataEvent_setAcc (t : Timeline) (a : Nat) :
    (t.setAcc a).dataEvent = t.dataEvent.setAcc a := by
  simp only [Timeline.dataEvent, apply_ite (Timeline.setAcc · a)]
  rfl

/-- No event reads or writes the accumulator (R145 to R149). -/
theorem Timeline.event_setAcc (t : Timeline) (a : Nat) (p : Phase) :
    (t.setAcc a).event p = ((t.event p).1.setAcc a, (t.event p).2) := by
  cases p with
  | data => rw [Timeline.event, Timeline.dataEvent_setAcc]; rfl
  | _ => rfl

end

/-! ### The advance, short of the threshold and from it on -/

section

variable {c : Config} {m : Memory} {t : Timeline} {d : Nat}

theorem Timeline.advance_of_lt_threshold (hi : t.intact = true) (hd : t.dur c m = .ok d)
    (hlt : t.acc + c.clkHz < d * c.srHz) :
    t.advance c m = .ok (t.setAcc (t.acc + c.clkHz), false) := by
  simp only [Timeline.advance, if_pos hi, hd, if_pos hlt]

/-- R144: the test is `≥`, and the remainder is kept. -/
theorem Timeline.advance_of_threshold_le (hi : t.intact = true) (hd : t.dur c m = .ok d)
    (hle : d * c.srHz ≤ t.acc + c.clkHz) :
    t.advance c m = .ok ((t.setAcc (t.acc + c.clkHz - d * c.srHz)).event t.phase) := by
  simp only [Timeline.advance, if_pos hi, hd, if_neg (Nat.not_lt.2 hle)]

end

/-! ### The phase an event leads to (R37) -/

section

variable {t : Timeline}

theorem Timeline.phase_after_pause (hlead : 0 < t.leadRem.toNat) :
    ({ t with pausePend := false } : Timeline).phase = .lead :=
  (Timeline.phase_lead_iff _).2 ⟨rfl, hlead⟩

theorem Timeline.phase_after_last_lead (hp : t.phase = .lead) (hlast : t.leadRem.toNat = 1)
    (hsync1 : t.sync1Pend = true) :
    ({ t with leadRem := t.leadRem - 1 } : Timeline).phase = .sync1 := by
  obtain ⟨hpause, -⟩ := (Timeline.phase_lead_iff t).1 hp
  have hspent : (t.leadRem - 1).toNat = 0 := by bv_omega
  exact (Timeline.phase_sync1_iff _).2 ⟨hpause, hspent, hsync1⟩

theorem Timeline.phase_after_sync1 (hp : t.phase = .sync1) (hsync2 : t.sync2Pend = true) :
    ({ t with sync1Pend := false } : Timeline).phase = .sync2 := by
  obtain ⟨hpause, hlead, -⟩ := (Timeline.phase_sync1_iff t).1 hp
  exact (Timeline.phase_sync2_iff _).2 ⟨hpause, hlead, rfl, hsync2⟩

theorem Timeline.phase_after_sync2 (hp : t.phase = .sync2) (hdata : t.off.toNat < t.len.toNat) :
    ({ t with sync2Pend := false } : Timeline).phase = .data := by
  obtain ⟨hpause, hlead, hsync1, -⟩ := (Timeline.phase_sync2_iff t).1 hp
  exact (Timeline.phase_data_iff _).2 ⟨hpause, hlead, hsync1, rfl, hdata⟩

/-- `off` does not wrap at the last byte, since `L` has its width. -/
theorem Timeline.phase_after_last_byte (hp : t.phase = .data)
    (hlast : t.off.toNat + 1 = t.len.toNat) :
    ({ t with off := t.off + 1, bitx := 7, hc := 2 } : Timeline).phase = .complete := by
  obtain ⟨hpause, hlead, hsync1, hsync2, -⟩ := (Timeline.phase_data_iff t).1 hp
  have hend : t.len.toNat ≤ (t.off + 1).toNat := by bv_omega
  exact (Timeline.phase_complete_iff _).2 ⟨hpause, hlead, hsync1, hsync2, hend⟩

end

/-- Settles O21: the advance by which side of the threshold it is on, then the event of the phase; in
DATA the half-cycle and the bit choose among three. -/
theorem advanceMakesOneEventAtThreshold : Obligations.AdvanceMakesOneEventAtThreshold := by
  intro c m t d hi hd
  refine ⟨Timeline.advance_of_lt_threshold hi hd, fun hle => ?events,
    fun _ => Timeline.phase_after_pause, Timeline.phase_after_last_lead,
    Timeline.phase_after_sync1, Timeline.phase_after_sync2, Timeline.phase_after_last_byte⟩
  case events =>
    rw [Timeline.advance_of_threshold_le hi hd hle, Timeline.event_setAcc]
    refine ⟨fun hp => ?pause, fun hp => ?lead, fun hp => ?sync1, fun hp => ?sync2,
      fun hp hhc => ?firstHalf, fun hp hhc hbit => ?lastBit, fun hp hhc hbit => ?nextBit⟩ <;>
      rw [hp]
    case pause | lead | sync1 | sync2 => rfl
    case firstHalf => rw [Timeline.event, Timeline.dataEvent_first_half hhc]; rfl
    case lastBit => rw [Timeline.event, Timeline.dataEvent_last_bit hhc hbit]; rfl
    case nextBit => rw [Timeline.event, Timeline.dataEvent_next_bit hhc hbit]; rfl

end Sys2Proof.Machine

/-! PROOFS. NOP, READ_STATUS, and the SAMPLE paths that need no timeline (42_encoder.md R181, R182,
R190, R191). -/

namespace Sys2Proof

/-! ### The words of NOP and READ_STATUS (30_encoding.md R93) -/

theorem decode_nop_word (side : List Byte) : decode 0x0000 side = .ok .nop := rfl

theorem decode_readStatus_word (side : List Byte) : decode 0x0005 side = .ok .readStatus := rfl

end Sys2Proof

namespace Sys2Proof.Machine

/-- Settles O8: NOP has one path, a bare response. -/
theorem nopOnlyResponds : Obligations.NopOnlyResponds :=
  ⟨decode_nop_word, fun s => show execNop s = .next (s.respond .ok 0x00) from rfl⟩

/-- Settles O9: READ_STATUS has one path, a bare response with STATUS. -/
theorem readStatusAnswersStatus : Obligations.ReadStatusAnswersStatus :=
  ⟨decode_readStatus_word, fun s => show execReadStatus s = .next (s.respond .ok s.status) from rfl⟩

/-! ### SAMPLE without a container and after the finish -/

section

variable {s : State}

theorem execSample_of_detached (hatt : s.att = false) :
    execSample s = .next (s.idleSample .zero .posZero []) := by
  rw [execSample, if_pos hatt]

theorem execSample_of_finished (hatt : s.att = true) (hfin : s.fin = true) :
    execSample s = .next (s.idleSample s.pol.sign (level s.cfg s.pol) []) := by
  rw [execSample, if_neg (by rw [hatt]; decide), if_pos hfin]

/-- Once `fin` is set, no frame wrap emits FRAME (R215), so an idle sample has no event of its own. -/
theorem State.idleSample_of_finished (hfin : s.fin = true) (sgn : Sign) (x : Binary64) :
    s.idleSample sgn x [] =
      (s.setBorder (s.border.record s.cfg true sgn s.cfg.colIdle s.cfg.colIdle).1).deliver x [] := by
  obtain ⟨-, -, hsilent⟩ := Border.record_fin s.cfg sgn s.cfg.colIdle s.cfg.colIdle s.border
  rw [State.idleSample_eq, hfin, hsilent, List.nil_append]

end

/-- A level and a sign given for each polarity are R187's level and the polarity's own sign. -/
theorem eq_level_and_sign {c : Config} {p : Polarity} {x : Binary64} {sgn : Sign}
    (hplus : p = .plus → x = c.level ∧ sgn = .plus)
    (hminus : p = .minus → x = c.level.neg ∧ sgn = .minus) : x = level c p ∧ sgn = p.sign := by
  cases p with
  | plus => exact hplus rfl
  | minus => exact hminus rfl

/-- Settles O26: the path without a container is one idle sample of `+0.0` with sign 0. -/
theorem sampleIsSilentWithoutContainer : Obligations.SampleIsSilentWithoutContainer := by
  intro s hatt
  calc exec .sample s
      = .next (s.idleSample .zero .posZero []) := execSample_of_detached hatt
    _ = _ := by rw [State.idleSample_eq, List.nil_append]; rfl

/-- Settles O27: the finished path is one idle sample of the polarity's level, and its record emits
nothing. -/
theorem sampleHoldsLevelWhenFinished : Obligations.SampleHoldsLevelWhenFinished := by
  intro s x sgn hatt hfin hplus hminus
  obtain ⟨rfl, rfl⟩ := eq_level_and_sign hplus hminus
  calc exec .sample s
      = .next (s.idleSample s.pol.sign (level s.cfg s.pol) []) := execSample_of_finished hatt hfin
    _ = _ := by rw [State.idleSample_of_finished hfin]; rfl

end Sys2Proof.Machine

/-! PROOFS. One border record, the terminal snapshot, ACK_FRAME and READ_SNAP (43_border.md R210 to
R218). -/

namespace Sys2Proof

/-- The domain of `N_LINES` is one of the checks of R8. -/
theorem Config.nLines_le_of_wf {c : Config} (h : c.wf = true) : c.nLines ≤ 512 := by
  simp only [Config.wf, Bool.and_eq_true] at h
  obtain ⟨-, -, -, -, -, -, -, hlines, -⟩ := h
  exact (of_decide_eq_true hlines).2

/-! ### The words of ACK_FRAME and READ_SNAP (30_encoding.md R93) -/

theorem decode_ackFrame_word (side : List Byte) : decode 0x0004 side = .ok .ackFrame := rfl

theorem decode_of_op_six {w : Word} (h : wordOp w = 0x06) (side : List Byte) :
    decode w side = .ok (.readSnap (wordImm w)) := by
  rw [decode, if_pos h]

end Sys2Proof

namespace Sys2Proof.Machine

/-! ### The colour of a commit (R212) -/

theorem eq_commitColour {lo hi col : Colour} {sgn : Sign} (hplus : sgn = .plus → col = hi)
    (hother : sgn ≠ .plus → col = lo) : col = commitColour lo hi sgn := by
  cases sgn with
  | plus => exact hplus rfl
  | minus | zero => exact hother Sign.noConfusion

/-! ### The scanline counter and the wrap (R214, R215) -/

section

variable {c : Config} {b : Border}

@[simp] theorem Border.nextLine_bacc (c : Config) (fin : Bool) (b : Border) :
    (b.nextLine c fin).1.bacc = b.bacc := by
  unfold Border.nextLine
  split_ifs <;> rfl

@[simp] theorem Border.nextLine_buf (c : Config) (fin : Bool) (b : Border) :
    (b.nextLine c fin).1.buf = b.buf := by
  unfold Border.nextLine
  split_ifs <;> rfl

/-- Inside a frame only `line` moves; its 9 bits do not wrap, since `N_LINES` is at most 512. -/
theorem Border.nextLine_inside_frame (fin : Bool) (hmax : c.nLines ≤ 512)
    (h : b.line.toNat + 1 < c.nLines) :
    (b.nextLine c fin).1.line.toNat = b.line.toNat + 1 ∧ (b.nextLine c fin).1.fr = b.fr ∧
      (b.nextLine c fin).1.snap = b.snap ∧ (b.nextLine c fin).2 = [] := by
  have hsucc : (b.line + 1).toNat = b.line.toNat + 1 := by bv_omega
  rw [Border.nextLine_of_ne c fin b h.ne]
  exact ⟨hsucc, rfl, rfl, rfl⟩

/-- At the wrap `line` is 0, and `fin` decides whether the frame is handed over. -/
theorem Border.nextLine_at_wrap (fin : Bool) (h : b.line.toNat + 1 = c.nLines) :
    (b.nextLine c fin).1.line = 0 ∧
      (fin = true → (b.nextLine c fin).1.fr = b.fr ∧ (b.nextLine c fin).1.snap = b.snap ∧
        (b.nextLine c fin).2 = []) ∧
      (fin = false → (b.nextLine c fin).1.fr = true ∧ (b.nextLine c fin).1.snap = b.buf ∧
        (b.nextLine c fin).2 = [.frame b.buf]) := by
  rw [Border.nextLine_of_wrap c fin b h]
  cases fin with
  | true => exact ⟨rfl, fun _ => ⟨rfl, rfl, rfl⟩, Bool.noConfusion⟩
  | false => exact ⟨rfl, Bool.noConfusion, fun _ => ⟨rfl, rfl, rfl⟩⟩

end

/-- A commit is a store, which writes one entry of `buf` and leaves `line`, `fr` and `snap`,
followed by the scanline counter (R210). -/
theorem Border.record_of_commit (c : Config) (fin : Bool) (sgn : Sign) (lo hi : Colour) (b : Border)
    (hbuf : b.buf.length = c.nStored) (h : c.lineBudget < b.bacc + c.clkHz) :
    ∃ b1 : Border, b.record c fin sgn lo hi = b1.nextLine c fin ∧
      b1.bacc = b.bacc + c.clkHz - c.lineBudget ∧ b1.line = b.line ∧ b1.fr = b.fr ∧
      b1.snap = b.snap ∧ b1.buf.length = c.nStored ∧
      ∀ j, j < c.nStored →
        b1.buf[j]? = if j = b.line.toNat then some (commitColour lo hi sgn) else b.buf[j]? :=
  ⟨_, Border.record_of_lt c fin sgn lo hi b h, Border.store_bacc .., Border.store_line ..,
    Border.store_fr .., Border.store_snap .., (Border.store_buf_length ..).trans hbuf,
    Border.store_buf c _ _ hbuf⟩

/-- Settles O38: at a commit the store fixes `bacc` and `buf`, and the scanline counter, inside the
frame or at the wrap, fixes `line`, `fr`, `snap` and the events. -/
theorem borderRecordCommitsOneLine : Obligations.BorderRecordCommitsOneLine := by
  intro c fin sgn lo hi col b hwf _ hbuf hplus hother
  obtain rfl := eq_commitColour hplus hother
  refine ⟨fun hle => Border.record_of_le c fin sgn lo hi b hle, fun hlt => ?commit⟩
  case commit =>
    obtain ⟨b1, hrecord, hbacc, hline, hfr, hsnap, hlen, hentries⟩ :=
      Border.record_of_commit c fin sgn lo hi b hbuf hlt
    refine ⟨(b1.nextLine c fin).1, (b1.nextLine c fin).2, hrecord, ?_⟩
    rw [← hline] at hentries ⊢
    rw [Border.nextLine_bacc, Border.nextLine_buf, ← hfr, ← hsnap]
    exact ⟨hbacc, hlen, hentries, Border.nextLine_inside_frame fin (Config.nLines_le_of_wf hwf),
      Border.nextLine_at_wrap fin⟩

/-- Settles O11: ACK_FRAME has one path, which clears `fr` and responds. -/
theorem ackFrameClearsFrameReady : Obligations.AckFrameClearsFrameReady :=
  ⟨decode_ackFrame_word, fun s =>
    show execAckFrame s = .next ((s.setBorder { s.border with fr := false }).respond .ok 0x00)
      from rfl⟩

/-- Settles O12: 8 bits index 256 entries, so the entry is there, and READ_SNAP responds with it. -/
theorem readSnapAnswersEntry : Obligations.ReadSnapAnswersEntry := by
  refine ⟨fun w side hop => decode_of_op_six hop side, fun idx s hstored hlen => ?_⟩
  obtain ⟨col, hcol⟩ := getElem?_snap s.border.snap (hlen.trans hstored) idx
  refine ⟨col, hcol, ?_⟩
  calc exec (.readSnap idx) s
      = .next (s.respond .ok (colourData (snapEntry s.border.snap idx))) := rfl
    _ = .next (s.respond .ok (colourData col)) := by rw [snapEntry_of_some hcol]

/-! ### SAMPLE with no block left (42_encoder.md R183) -/

section

variable {s : State}

theorem execSample_of_no_timeline (hatt : s.att = true) (hfin : s.fin = false) (htl : s.tl = none) :
    execSample s = s.startOrFinish := by
  simp only [execSample, hatt, hfin, htl, Bool.true_eq_false, Bool.false_eq_true, if_false]

theorem State.startOrFinish_of_no_block (h : s.nblk ≤ s.bidx) :
    s.startOrFinish =
      .next (s.finish.1.idleSample s.pol.sign (level s.cfg s.pol) s.finish.2) := by
  have hnone : s.blk[s.bidx]? = none := List.getElem?_eq_none h
  simp only [State.startOrFinish, hnone]

/-- The sample of the finish is that of the finished path: its record comes after `fin` is set, so
it adds no event to DONE and the terminal FRAME (R215, R216). -/
theorem State.idleSample_finish (s : State) (sgn : Sign) (x : Binary64) :
    s.finish.1.idleSample sgn x s.finish.2 =
      (s.setFin.setBorder ((s.border.terminal s.cfg).1.record s.cfg true sgn s.cfg.colIdle
        s.cfg.colIdle).1).deliver x
        [.done, .frame (List.replicate s.cfg.nStored s.cfg.colIdle)] := by
  obtain ⟨-, -, hsilent⟩ :=
    Border.record_fin s.cfg sgn s.cfg.colIdle s.cfg.colIdle (s.border.terminal s.cfg).1
  rw [State.idleSample_eq, State.finish_eq]
  simp only [State.setBorder_fin, State.setFin_fin, State.setBorder_cfg, State.setFin_cfg,
    State.setBorder_border, hsilent, List.append_nil]
  rfl

end

/-- Settles O28: no block left means the finish and then an idle sample of the polarity's level. -/
theorem sampleFinishesAfterLastBlock : Obligations.SampleFinishesAfterLastBlock := by
  intro s x sgn hatt hfin htl hlast hplus hminus
  obtain ⟨rfl, rfl⟩ := eq_level_and_sign hplus hminus
  calc exec .sample s
      = s.startOrFinish := execSample_of_no_timeline hatt hfin htl
    _ = .next (s.finish.1.idleSample s.pol.sign (level s.cfg s.pol) s.finish.2) :=
        State.startOrFinish_of_no_block hlast
    _ = _ := by rw [State.idleSample_finish]; rfl

end Sys2Proof.Machine

/-! PROOFS. The reset input (70_reset_and_hazards.md R260). -/

namespace Sys2Proof.Machine

/-- The reset input is taken in any state, the fault state included (R260, R272). -/
theorem step_of_reset {s : State} {rest : List Input} (hwf : s.cfg.wf = true)
    (hin : s.inputs = .reset :: rest) : step s = .next (s.takeInput rest).assertReset := by
  simp only [step, hwf, hin, if_true]

/-- STATUS after the reset input is that of the reset state: it does not read the inputs kept. -/
@[simp] theorem State.assertReset_status (s : State) : s.assertReset.status = 0x80 :=
  State.resetWith_status s.cfg

/-- Settles O1: the step takes the reset input, and `assertReset` stores each value of R260's table;
STATUS alone is a view, with a lemma of its own. -/
theorem resetWritesTableValues : Obligations.ResetWritesTableValues := by
  intro s rest hwf hin
  have hstatus : (s.takeInput rest).assertReset.status = 0x80 := State.assertReset_status _
  exact ⟨(s.takeInput rest).assertReset, step_of_reset hwf hin,
    rfl, rfl, rfl, rfl, rfl, rfl, rfl, rfl, rfl, rfl,  -- the encoder and the filter
    rfl, rfl, rfl, rfl, rfl,  -- the border sampler
    hstatus, rfl, rfl,  -- STATUS and the two marks
    rfl, rfl, rfl⟩  -- the configuration, no response, the inputs still to come

end Sys2Proof.Machine

/-! PROOFS. The decoder and the encoder (30_encoding.md R93, R103, R105). -/

namespace Sys2Proof

/-- The word of a command, with its side operand beside it, decodes to that command (R105). -/
theorem decode_word (i : Instr) : decode i.word i.side = .ok i := by
  cases i <;> simp [decode, Instr.opcode, Instr.imm8, Instr.side]

/-- Only ATTACH has bytes past its two, and it takes all of them (R92, R103). -/
theorem decodeBytes_encodeBytes (i : Instr) : decodeBytes (encodeBytes i) = .ok (i, []) := by
  have hword : decode (i.imm8 ++ i.opcode) i.side = .ok i := decode_word i
  simp only [encodeBytes, decodeBytes, hword]
  cases i <;> rfl

/-- Settles O6: by words and by bytes, both by what `decode` answers to a command's own word. -/
theorem decodeOfEncodeIsCommand : Obligations.DecodeOfEncodeIsCommand :=
  fun i _ => ⟨decode_word i, decodeBytes_encodeBytes i⟩

/-- Everything the decoder can answer (R105): a command whose fields are those of the word, or
reserved. -/
theorem decode_cases (w : Word) (side : List Byte) :
    (∃ i : Instr, decode w side = .ok i ∧ i.opcode = wordOp w ∧ i.imm8 = wordImm w ∧
      (i.side = side ∨ i.side = [])) ∨
    decode w side = .error (.reserved w) := by
  unfold decode
  by_cases h6 : wordOp w = 0x06
  · exact .inl ⟨_, if_pos h6, h6.symm, rfl, .inr rfl⟩
  · rw [if_neg h6]
    by_cases himm : wordImm w = 0x00
    · rw [if_pos himm, himm]
      split_ifs with h0 h1 h2 h3 h4 h5
      · exact .inl ⟨_, rfl, h0.symm, rfl, .inr rfl⟩
      · exact .inl ⟨_, rfl, h1.symm, rfl, .inr rfl⟩
      · exact .inl ⟨_, rfl, h2.symm, rfl, .inl rfl⟩
      · exact .inl ⟨_, rfl, h3.symm, rfl, .inr rfl⟩
      · exact .inl ⟨_, rfl, h4.symm, rfl, .inr rfl⟩
      · exact .inl ⟨_, rfl, h5.symm, rfl, .inr rfl⟩
      · exact .inr rfl
    · exact .inr (if_neg himm)

/-- A word that decodes is the word of what it decodes to. -/
theorem word_of_decode {w : Word} {side : List Byte} {i : Instr} (h : decode w side = .ok i) :
    i.word = w ∧ (i.side = side ∨ i.side = []) := by
  rcases decode_cases w side with ⟨j, hj, hop, himm, hside⟩ | hres
  · obtain rfl : j = i := Except.ok.inj (hj.symm.trans h)
    exact ⟨by rw [Instr.word, himm, hop, word_eq_append], hside⟩
  · exact nomatch hres.symm.trans h

/-- The word of a command is not reserved, whatever stands beside it. -/
theorem decode_word_ne_error (i : Instr) (side : List Byte) (r : Reject) :
    decode i.word side ≠ .error r := by
  cases i <;> simp [decode, Instr.opcode, Instr.imm8]

/-- Settles O7: a word that decodes carries the fields of its command, and a command's word is never
reserved. -/
theorem decodedWordIsItsCommandsWord : Obligations.DecodedWordIsItsCommandsWord := by
  refine fun w side => ⟨fun i h => word_of_decode h, fun hres i hi => ?_, fun hnone => ?_⟩
  · subst hi
    exact decode_word_ne_error i side _ hres
  · rcases decode_cases w side with ⟨i, hi, -⟩ | hres
    · exact absurd (word_of_decode hi).1 (hnone i)
    · exact hres

/-- Settles O5: each word runs through the decoder by itself. -/
theorem decodeReadsWrittenOutWords : Obligations.DecodeReadsWrittenOutWords :=
  ⟨decode_nop_word [], rfl, decode_attach_word _, decode_detach_word [], decode_ackFrame_word [],
    decode_readStatus_word [], decode_of_op_six rfl [], decode_of_op_six rfl [], rfl, rfl, rfl⟩

end Sys2Proof

namespace Sys2Proof.Machine

theorem stepCommand_of_decode_ok {w : Word} {side : List Byte} {i : Instr}
    (h : decode w side = .ok i) (s : State) : stepCommand w side s = exec i s := by
  simp only [stepCommand, h]

/-- Settles O3: the step takes the input and runs what its word decodes to. -/
theorem stepRunsDecodedCommand : Obligations.StepRunsDecodedCommand := by
  intro s w side rest i hwf hrun hin hdec
  calc step s
      = stepCommand w side (s.takeInput rest) := step_of_command hwf hrun hin
    _ = exec i (s.takeInput rest) := stepCommand_of_decode_ok hdec _

end Sys2Proof.Machine

/-! PROOFS. The container memory and its derived views (20_memory.md R61, R62; 40_container.md
R125). -/

namespace Sys2Proof.Machine

/-! ### Reads -/

theorem Memory.read_ofBytes (bytes : List Byte) (a : Nat) :
    (Memory.ofBytes bytes).read a = bytes[a]? := by
  have h := Memory.read_load bytes 0 a
  rwa [Nat.zero_add] at h

theorem Memory.read16_of_read {m : Memory} {p : Nat} {lo hi : Byte} (hlo : m.read p = some lo)
    (hhi : m.read (p + 1) = some hi) : m.read16 p = some (hi ++ lo) := by
  simp only [Memory.read16, hlo, hhi]

/-- Settles O15: the copy is a load from address 0. -/
theorem containerCopyReadsBack : Obligations.ContainerCopyReadsBack := fun B =>
  ⟨Memory.wfFrom_load B 0, Memory.load_length B 0, Memory.load_bytes B 0, Memory.read_ofBytes B⟩

/-- Settles O16: the read puts the second byte on top. -/
theorem lengthFieldIsLittleEndian : Obligations.LengthFieldIsLittleEndian :=
  fun _ _ lo hi hlo hhi =>
    ⟨hi ++ lo, Memory.read16_of_read hlo hhi, by rw [append_toNat, Nat.mul_comm, Nat.add_comm]⟩

/-! ### The closed forms' reads, where a read answers -/

theorem lenAt_of_read16 {m : Memory} {p : Nat} {L : BitVec 16} (h : m.read16 p = some L) :
    lenAt m p = L.toNat := by
  rw [lenAt, h, Option.getD_some]

theorem byteAt_of_read {m : Memory} {a : Nat} {b : Byte} (h : m.read a = some b) :
    byteAt m a = b := by
  rw [byteAt, h, Option.getD_some]

/-! ### The views of R125 -/

@[simp] theorem Memory.bytes_length (m : Memory) : m.bytes.length = m.length := List.length_map _

/-- The blocks the walk lists from `p` on fill the container. -/
theorem sum_lengths_of_walkFrom {m : Memory} (hm : m.wf = true) {fuel p : Nat} {T : List Nat}
    (h : walkFrom m.bytes fuel p = some T) (hp : p ≤ m.length) :
    p + (T.map fun q => 2 + lenAt m q).sum = m.length := by
  induction fuel generalizing p T with
  | zero => cases h
  | succ fuel ih =>
    rcases walkFrom_cases h with ⟨hend, rfl⟩ | ⟨lo, hi, T', hlo, hhi, -, hfits, hrest, rfl⟩
    · rw [Memory.bytes_length] at hend
      simpa using Nat.le_antisymm hp hend
    · rw [Memory.bytes_length] at hfits
      rw [← Memory.read_eq_bytes m hm] at hlo hhi
      have hlen : lenAt m p = (hi ++ lo : BitVec 16).toNat :=
        lenAt_of_read16 (Memory.read16_of_read hlo hhi)
      rw [List.map_cons, List.sum_cons, hlen, ← ih hrest hfits]
      omega

theorem State.blockAt_of_read {s : State} {i p : Nat} {L : BitVec 16} {flag : Byte}
    (hp : s.blk[i]? = some p) (hlen : s.cont.read16 p = some L)
    (hflag : s.cont.read (p + 2) = some flag) : s.blockAt i = some (flag, p + 2, L.toNat) := by
  simp only [State.blockAt, hp, hlen, hflag]

/-- Settles O18: the table is the walk, whose blocks fill the container and lie in it. -/
theorem containerViewsAgree : Obligations.ContainerViewsAgree := by
  intro s hinv
  have hsum : 0 + (s.blk.map fun p => 2 + lenAt s.cont p).sum = s.cont.length :=
    sum_lengths_of_walkFrom hinv.cont_wf hinv.blk_walk (Nat.zero_le _)
  refine ⟨rfl, rfl, (hsum.symm.trans (Nat.zero_add _)), fun i p hp => ?_⟩
  obtain ⟨L, hlen, hpos, hfits⟩ := walk_block hinv.cont_wf hinv.blk_walk hp
  obtain ⟨flag, hflag⟩ := Memory.read_of_lt s.cont hinv.cont_wf (a := p + 2) (by omega)
  exact ⟨L, flag, hlen, hflag, State.blockAt_of_read hp hlen hflag, hpos, hfits⟩

/-! ### The builder (20_memory.md R65, 30_encoding.md R104) -/

/-- The payload region ATTACHBLK builds for a block: the flag, the data and the checksum. -/
def builtPayload (b : Byte × List Byte) : List Byte := b.1 :: b.2 ++ [checksum b.1 b.2]

theorem builtPayload_length (b : Byte × List Byte) : (builtPayload b).length = b.2.length + 2 := by
  simp [builtPayload]

theorem containerBytes_eq_tile (blocks : List (Byte × List Byte)) :
    containerBytes blocks = tile (blocks.map builtPayload) := by
  induction blocks with
  | nil => rfl
  | cons b blocks ih =>
    rw [List.map_cons, tile, builtPayload_length, ← ih]
    rfl

theorem starts_length (p : Nat) (payloads : List (List Byte)) :
    (starts p payloads).length = payloads.length := by
  induction payloads generalizing p with
  | nil => rfl
  | cons payload payloads ih => rw [starts, List.length_cons, ih, List.length_cons]

/-- Settles O50: the built bytes are a tiling, which the walk accepts. -/
theorem builtContainerIsAccepted : Obligations.BuiltContainerIsAccepted := by
  intro blocks hfit
  have hpayloads : PayloadsFit (blocks.map builtPayload) := by
    intro P hP
    obtain ⟨b, hb, rfl⟩ := List.mem_map.1 hP
    have hb : b.2.length + 2 ≤ 65535 := of_decide_eq_true (hfit b hb)
    rw [builtPayload_length]
    omega
  refine ⟨starts 0 (blocks.map builtPayload), ?_, by rw [starts_length, List.length_map]⟩
  exact (walkAcceptsExactlyTilings _ _).2 ⟨_, hpayloads, containerBytes_eq_tile blocks, rfl⟩

/-- A change of the value the checksum starts from carries through to its end. -/
theorem checksum_xor (flag e : Byte) (data : List Byte) :
    checksum (flag ^^^ e) data = checksum flag data ^^^ e := by
  induction data generalizing flag with
  | nil => rfl
  | cons b data ih =>
    calc checksum (flag ^^^ e) (b :: data)
        = checksum (flag ^^^ b ^^^ e) data := by
          rw [checksum, List.foldl_cons, BitVec.xor_assoc, BitVec.xor_comm e, ← BitVec.xor_assoc]; rfl
      _ = checksum flag (b :: data) ^^^ e := ih (flag ^^^ b)

theorem checksum_append_cons (flag b : Byte) (before after : List Byte) :
    checksum flag (before ++ b :: after) = checksum (checksum flag before ^^^ b) after := by
  rw [checksum, List.foldl_append]
  rfl

theorem xor_twoPow_ne (x : Byte) {k : Nat} (hk : k < 8) : x ^^^ BitVec.twoPow 8 k ≠ x := by
  intro h
  have hbit : (x ^^^ BitVec.twoPow 8 k).getLsbD k = x.getLsbD k := by rw [h]
  simp [hk] at hbit

/-- Settles O51: the checksum is an exclusive-or, so a flipped bit of a covered byte, or of the flag,
is a flipped bit of the checksum. -/
theorem checksumDetectsOneBit : Obligations.ChecksumDetectsOneBit := by
  refine ⟨fun flag before after b k hk => ?_, fun flag data k hk => ?_⟩
  · have hflip : checksum flag (before ++ (b ^^^ BitVec.twoPow 8 k) :: after) =
        checksum flag (before ++ b :: after) ^^^ BitVec.twoPow 8 k := by
      rw [checksum_append_cons, checksum_append_cons, ← BitVec.xor_assoc, checksum_xor]
    exact ⟨hflip, hflip ▸ xor_twoPow_ne _ hk⟩
  · rw [checksum_xor]
    exact xor_twoPow_ne _ hk

end Sys2Proof.Machine

/-! PROOFS. The timeline's invariant, kept by every advance (41_timeline.md R140, R152, R157). -/

namespace Sys2Proof

/-- The check of W2 is one of those of R8. -/
theorem Config.w2_of_wf {c : Config} (h : c.wf = true) : c.w2 = true := by
  simp only [Config.wf, Bool.and_eq_true] at h
  obtain ⟨-, hw2, -⟩ := h
  exact hw2

/-- By W1 a sample period is not nothing. -/
theorem Config.clkHz_pos_of_wf {c : Config} (h : c.wf = true) : 0 < c.clkHz := by
  simp only [Config.wf, Bool.and_eq_true, Config.w1, decide_eq_true_eq] at h
  obtain ⟨⟨-, -, -, -, -, -, -, hclk, -⟩, -⟩ := h
  exact hclk

end Sys2Proof

namespace Sys2Proof.Machine

/-- Settles O52: the first two tests of the phase, on the fields construction writes. -/
theorem newTimelinePhaseIsPauseOrLead : Obligations.NewTimelinePhaseIsPauseOrLead := by
  intro c m i p t hwf h
  obtain ⟨L, flag, -, -, rfl⟩ := newTimeline_cases h
  by_cases hi : 0 < i
  · rw [if_pos hi]
    exact (Timeline.phase_pause_iff _).2 (decide_eq_true hi)
  · rw [if_neg hi]
    have hlead := (leadCount_toNat (Config.w4_of_wf hwf) flag).2
    exact (Timeline.phase_lead_iff _).2 ⟨decide_eq_false hi, hlead⟩

section

variable {c : Config} {m : Memory} {i p : Nat} {t : Timeline}

/-! ### In time by W2 -/

/-- What is left of a sample period is less than any interval. -/
theorem Timeline.in_time_of_acc_lt (hwf : c.wf = true) (hm : m.wf = true)
    (hfits : t.base + t.len.toNat ≤ m.length) (hactive : t.phase ≠ .complete)
    (hacc : t.acc < c.clkHz) : ∃ d, t.dur c m = .ok d ∧ t.acc < d * c.srHz := by
  obtain ⟨d, hd⟩ := Timeline.dur_ok (c := c) hm hfits hactive
  exact ⟨d, hd, lt_of_lt_of_le hacc (Timeline.clk_le_dur (Config.w2_of_wf hwf) hd)⟩

theorem Timeline.Inv.payload_fits (h : t.Inv c m i p) : t.base + t.len.toNat ≤ m.length :=
  h.base_eq ▸ h.fits

/-! ### Construction meets the invariant -/

/-- The timeline built for a block that lies in the container meets its invariant. -/
theorem newTimeline_inv (hwf : c.wf = true) (hm : m.wf = true)
    (h : newTimeline c m i p = .ok t) (hpos : 0 < t.len.toNat)
    (hfits : p + 2 + t.len.toNat ≤ m.length) : t.Inv c m i p := by
  have hphase := newTimelinePhaseIsPauseOrLead c m i p t hwf h
  have hactive : t.phase ≠ .complete := by
    rw [hphase]
    split <;> decide
  obtain ⟨L, flag, hlen, hflag, rfl⟩ := newTimeline_cases h
  have hlead := (leadCount_toNat (Config.w4_of_wf hwf) flag).2
  exact
    { len_read := hlen
      len_pos := hpos
      fits := hfits
      base_eq := rfl
      intact := (Timeline.intact_iff _).2 ⟨.inr rfl, Nat.zero_le _⟩
      active := hactive
      pause_first := fun hpause => ⟨of_decide_eq_true hpause, hlead⟩
      lead_first := fun _ => rfl
      sync1_first := fun _ => rfl
      sync2_first := fun _ => ⟨rfl, rfl, rfl⟩
      lead_le := ⟨flag, hflag, le_rfl, fun _ => rfl⟩
      in_time := Timeline.in_time_of_acc_lt hwf hm hfits hactive (Config.clkHz_pos_of_wf hwf) }

/-- A block of the container's table has a timeline, which meets the invariant (R140). -/
theorem newTimeline_of_block (hwf : c.wf = true) (hm : m.wf = true) {T : List Nat}
    (hwalk : walk m.bytes = some T) {j : Nat} (hp : T[j]? = some p) (i : Nat) :
    ∃ t, newTimeline c m i p = .ok t ∧ t.len.toNat = lenAt m p ∧ t.Inv c m i p := by
  obtain ⟨L, hlen, hpos, hfits⟩ := walk_block hm hwalk hp
  obtain ⟨flag, hflag⟩ := Memory.read_of_lt m hm (a := p + 2) (by omega)
  have hnew := newTimeline_of_read (c := c) hlen hflag i
  exact ⟨_, hnew, (lenAt_of_read16 hlen).symm, newTimeline_inv hwf hm hnew hpos hfits⟩

/-! ### One event, phase by phase -/

/-- Short of the threshold only `acc` moves, and it stays below the threshold. -/
theorem Timeline.Inv.setAcc (h : t.Inv c m i p) {a d : Nat} (hd : t.dur c m = .ok d)
    (ha : a < d * c.srHz) : (t.setAcc a).Inv c m i p :=
  { h with in_time := ⟨d, hd, ha⟩ }

section

variable (hwf : c.wf = true) (hm : m.wf = true) {a : Nat} (ha : a < c.clkHz) (h : t.Inv c m i p)
include hwf hm ha h

/-- The end of the pause (R145) leads to LEAD. -/
theorem Timeline.Inv.after_pause (hp : t.phase = .pause) :
    ({ t with acc := a, pausePend := false } : Timeline).phase = .lead ∧
      ({ t with acc := a, pausePend := false } : Timeline).Inv c m i p := by
  obtain ⟨-, hlead⟩ := h.pause_first ((Timeline.phase_pause_iff t).1 hp)
  have hphase : ({ t with acc := a, pausePend := false } : Timeline).phase = .lead :=
    Timeline.phase_after_pause hlead
  have hactive : ({ t with acc := a, pausePend := false } : Timeline).phase ≠ .complete := by
    rw [hphase]; decide
  obtain ⟨flag, hflag, hle, -⟩ := h.lead_le
  exact ⟨hphase, { h with
    active := hactive
    pause_first := Bool.noConfusion
    lead_le := ⟨flag, hflag, hle, Bool.noConfusion⟩
    in_time := Timeline.in_time_of_acc_lt hwf hm h.payload_fits hactive ha }⟩

/-- A lead half-cycle (R146) leads to the next one, or from the last to SYNC1. -/
theorem Timeline.Inv.after_lead (hp : t.phase = .lead) :
    (({ t with acc := a, leadRem := t.leadRem - 1 } : Timeline).phase = .lead ∨
      ({ t with acc := a, leadRem := t.leadRem - 1 } : Timeline).phase = .sync1) ∧
    ({ t with acc := a, leadRem := t.leadRem - 1 } : Timeline).Inv c m i p := by
  obtain ⟨hpause, hlead⟩ := (Timeline.phase_lead_iff t).1 hp
  have hsync1 := h.lead_first hlead
  have hrem : (t.leadRem - 1).toNat = t.leadRem.toNat - 1 := by bv_omega
  have hphase : ({ t with acc := a, leadRem := t.leadRem - 1 } : Timeline).phase = .lead ∨
      ({ t with acc := a, leadRem := t.leadRem - 1 } : Timeline).phase = .sync1 := by
    by_cases hlast : t.leadRem.toNat = 1
    · exact .inr (Timeline.phase_after_last_lead hp hlast hsync1)
    · exact .inl ((Timeline.phase_lead_iff _).2 ⟨hpause, show 0 < (t.leadRem - 1).toNat by omega⟩)
  have hactive : ({ t with acc := a, leadRem := t.leadRem - 1 } : Timeline).phase ≠ .complete := by
    rcases hphase with e | e <;> rw [e] <;> decide
  obtain ⟨flag, hflag, hle, -⟩ := h.lead_le
  exact ⟨hphase, { h with
    active := hactive
    pause_first := fun hpend => absurd (hpause.symm.trans hpend) Bool.false_ne_true
    lead_first := fun _ => hsync1
    lead_le := ⟨flag, hflag, show (t.leadRem - 1).toNat ≤ _ by omega,
      fun hpend => absurd (hpause.symm.trans hpend) Bool.false_ne_true⟩
    in_time := Timeline.in_time_of_acc_lt hwf hm h.payload_fits hactive ha }⟩

/-- SYNC1 (R147) leads to SYNC2. -/
theorem Timeline.Inv.after_sync1 (hp : t.phase = .sync1) :
    ({ t with acc := a, sync1Pend := false } : Timeline).phase = .sync2 ∧
      ({ t with acc := a, sync1Pend := false } : Timeline).Inv c m i p := by
  obtain ⟨-, hlead, hsync1⟩ := (Timeline.phase_sync1_iff t).1 hp
  have hphase : ({ t with acc := a, sync1Pend := false } : Timeline).phase = .sync2 :=
    Timeline.phase_after_sync1 hp (h.sync1_first hsync1)
  have hactive : ({ t with acc := a, sync1Pend := false } : Timeline).phase ≠ .complete := by
    rw [hphase]; decide
  exact ⟨hphase, { h with
    active := hactive
    lead_first := fun hpos => absurd hlead hpos.ne'
    sync1_first := Bool.noConfusion
    in_time := Timeline.in_time_of_acc_lt hwf hm h.payload_fits hactive ha }⟩

/-- SYNC2 (R148) leads to DATA: no byte has been played, and there is one. -/
theorem Timeline.Inv.after_sync2 (hp : t.phase = .sync2) :
    ({ t with acc := a, sync2Pend := false } : Timeline).phase = .data ∧
      ({ t with acc := a, sync2Pend := false } : Timeline).Inv c m i p := by
  obtain ⟨-, -, hsync1, hsync2⟩ := (Timeline.phase_sync2_iff t).1 hp
  have hoff : t.off.toNat < t.len.toNat := by
    rw [(h.sync2_first hsync2).1]
    exact h.len_pos
  have hphase : ({ t with acc := a, sync2Pend := false } : Timeline).phase = .data :=
    Timeline.phase_after_sync2 hp hoff
  have hactive : ({ t with acc := a, sync2Pend := false } : Timeline).phase ≠ .complete := by
    rw [hphase]; decide
  exact ⟨hphase, { h with
    active := hactive
    sync1_first := fun hpend => absurd (hsync1.symm.trans hpend) Bool.false_ne_true
    sync2_first := Bool.noConfusion
    in_time := Timeline.in_time_of_acc_lt hwf hm h.payload_fits hactive ha }⟩

/-- An event of DATA (R149) that leaves a byte to play stays in DATA. -/
theorem Timeline.Inv.inside_data (hp : t.phase = .data) {hc : BitVec 2} {bitx : BitVec 3}
    {off : BitVec 16} (hhc : hc = 1 ∨ hc = 2) (hoff : off.toNat < t.len.toNat) :
    ({ t with acc := a, hc := hc, bitx := bitx, off := off } : Timeline).phase = .data ∧
      ({ t with acc := a, hc := hc, bitx := bitx, off := off } : Timeline).Inv c m i p := by
  obtain ⟨hpause, hlead, hsync1, hsync2, -⟩ := (Timeline.phase_data_iff t).1 hp
  have hphase : ({ t with acc := a, hc := hc, bitx := bitx, off := off } : Timeline).phase = .data :=
    (Timeline.phase_data_iff _).2 ⟨hpause, hlead, hsync1, hsync2, hoff⟩
  have hactive :
      ({ t with acc := a, hc := hc, bitx := bitx, off := off } : Timeline).phase ≠ .complete := by
    rw [hphase]; decide
  exact ⟨hphase, { h with
    intact := (Timeline.intact_iff _).2 ⟨hhc, hoff.le⟩
    active := hactive
    sync2_first := fun hpend => absurd (hsync2.symm.trans hpend) Bool.false_ne_true
    in_time := Timeline.in_time_of_acc_lt hwf hm h.payload_fits hactive ha }⟩

end

/-! ### The advance -/

/-- A timeline that has played all of its block (R37, R149). -/
structure Timeline.Played (m : Memory) (p : Nat) (t : Timeline) : Prop where
  complete : t.phase = .complete
  len_read : m.read16 p = some t.len
  base_eq : t.base = p + 2
  off_eq : t.off = t.len
  bitx_eq : t.bitx = 7
  hc_eq : t.hc = 2

/-- The end of the last byte is the end of the block; `off` does not wrap, since `L` has its width. -/
theorem Timeline.Inv.after_last_byte (h : t.Inv c m i p) (hp : t.phase = .data)
    (hlast : t.off.toNat + 1 = t.len.toNat) (a : Nat) :
    ({ t with acc := a, hc := 2, bitx := 7, off := t.off + 1 } : Timeline).Played m p where
  complete := Timeline.phase_after_last_byte (t := t.setAcc a) hp hlast
  len_read := h.len_read
  base_eq := h.base_eq
  off_eq := show t.off + 1 = t.len by bv_omega
  bitx_eq := rfl
  hc_eq := rfl

/-- What an advance answers: the invariant again, in the same phase or the next one, or the end of the
block, which DATA alone reaches. -/
theorem Timeline.Inv.advance_cases (hwf : c.wf = true) (hm : m.wf = true) (h : t.Inv c m i p)
    {t' : Timeline} {flip : Bool} (hadv : t.advance c m = .ok (t', flip)) :
    (t'.Inv c m i p ∧
      (t'.phase.rank = t.phase.rank ∨ t'.phase.rank = t.phase.rank + 1)) ∨
    (t.phase = .data ∧ t'.Played m p) := by
  obtain ⟨d₀, hd₀, hlate⟩ := h.in_time
  obtain ⟨-, d, a, hd, ⟨hlt, rfl, -⟩ | ⟨hge, ha, hevent⟩⟩ := Timeline.advance_events hadv
  · exact .inl ⟨h.setAcc hd hlt, .inl rfl⟩
  obtain rfl : d₀ = d := Except.ok.inj (hd₀.symm.trans hd)
  have hclk : a < c.clkHz := by omega
  rcases hevent with ⟨hp, rfl, -⟩ | ⟨hp, rfl, -⟩ | ⟨hp, rfl, -⟩ | ⟨hp, rfl, -⟩ | ⟨hp, -, rfl, -⟩ |
    ⟨hp, -, -, rfl, -⟩ | ⟨hp, -, -, rfl, -⟩
  · obtain ⟨hphase, hinv⟩ := h.after_pause hwf hm hclk hp
    exact .inl ⟨hinv, .inr (by rw [hphase, hp]; rfl)⟩
  · obtain ⟨hphase | hphase, hinv⟩ := h.after_lead hwf hm hclk hp
    · exact .inl ⟨hinv, .inl (by rw [hphase, hp])⟩
    · exact .inl ⟨hinv, .inr (by rw [hphase, hp]; rfl)⟩
  · obtain ⟨hphase, hinv⟩ := h.after_sync1 hwf hm hclk hp
    exact .inl ⟨hinv, .inr (by rw [hphase, hp]; rfl)⟩
  · obtain ⟨hphase, hinv⟩ := h.after_sync2 hwf hm hclk hp
    exact .inl ⟨hinv, .inr (by rw [hphase, hp]; rfl)⟩
  · obtain ⟨-, -, -, -, hoff⟩ := (Timeline.phase_data_iff t).1 hp
    obtain ⟨hphase, hinv⟩ := h.inside_data hwf hm hclk hp (bitx := t.bitx) (.inl rfl) hoff
    exact .inl ⟨hinv, .inl (by rw [hphase, hp])⟩
  · obtain ⟨-, -, -, -, hoff⟩ := (Timeline.phase_data_iff t).1 hp
    by_cases hlast : t.off.toNat + 1 = t.len.toNat
    · exact .inr ⟨hp, h.after_last_byte hp hlast a⟩
    · have hnext : (t.off + 1).toNat < t.len.toNat := by bv_omega
      obtain ⟨hphase, hinv⟩ := h.inside_data hwf hm hclk hp (bitx := 7) (.inr rfl) hnext
      exact .inl ⟨hinv, .inl (by rw [hphase, hp])⟩
  · obtain ⟨-, -, -, -, hoff⟩ := (Timeline.phase_data_iff t).1 hp
    obtain ⟨hphase, hinv⟩ := h.inside_data hwf hm hclk hp (bitx := t.bitx - 1) (.inr rfl) hoff
    exact .inl ⟨hinv, .inl (by rw [hphase, hp])⟩

/-- From the invariant an advance answers (R236). -/
theorem Timeline.Inv.advance_ok (h : t.Inv c m i p) : ∃ t' flip, t.advance c m = .ok (t', flip) := by
  obtain ⟨d, hd, -⟩ := h.in_time
  obtain ⟨⟨t', flip⟩, hadv⟩ := Timeline.advance_ok h.intact hd
  exact ⟨t', flip, hadv⟩

end

/-- Settles O22: the advance answers; where it does not end the block it keeps the invariant. -/
theorem advanceKeepsTimelineInTime : Obligations.AdvanceKeepsTimelineInTime := by
  intro c m i p t hwf hm h
  obtain ⟨t', flip, hadv⟩ := h.advance_ok
  refine ⟨t', flip, hadv, ?_⟩
  rcases h.advance_cases hwf hm hadv with ⟨hinv, hrank⟩ | ⟨hp, hplayed⟩
  · exact ⟨fun _ => hinv, hrank⟩
  · exact ⟨fun hactive => absurd hplayed.complete hactive,
      .inr (by rw [hplayed.complete, hp]; rfl)⟩

end Sys2Proof.Machine

/-! PROOFS. What the commands can do, each said once: the commands that do not move time, and SAMPLE
(30_encoding.md R93, 42_encoder.md R180). -/

namespace Sys2Proof.Machine

/-! ### The commands but SAMPLE -/

/-- Everything a command but SAMPLE can have done before it responds: nothing, or its one write. -/
inductive QuietWrite (s : State) : Instr → State → Prop
  | nothing (i : Instr) : QuietWrite s i s
  | attach {B : List Byte} {T : List Nat} (hcap : overCapacity s.cfg B.length = false)
      (hwalk : walk B = some T) :
      QuietWrite s (.attach B) (s.setContainer true (Memory.ofBytes B) T).restart
  | detach : QuietWrite s .detach (s.setContainer false [] []).restart
  | ackFrame : QuietWrite s .ackFrame (s.setBorder { s.border with fr := false })

/-- Every command but SAMPLE makes at most its one write, and responds with no event. -/
theorem exec_quiet_cases {i : Instr} {s t : State} (hi : i ≠ .sample) (h : exec i s = .next t) :
    ∃ u code d, QuietWrite s i u ∧ t = u.respond code d := by
  cases i with
  | nop => cases h; exact ⟨s, _, _, .nothing _, rfl⟩
  | sample => exact absurd rfl hi
  | attach B =>
    change execAttach B s = .next t at h
    rcases execAttach_cases B s with ⟨-, e⟩ | ⟨-, -, e⟩ | ⟨hcap, T, hwalk, e⟩ <;> rw [e] at h <;>
      cases h
    · exact ⟨s, _, _, .nothing _, rfl⟩
    · exact ⟨s, _, _, .nothing _, rfl⟩
    · exact ⟨_, _, _, .attach hcap hwalk, rfl⟩
  | detach => cases h; exact ⟨_, _, _, .detach, rfl⟩
  | ackFrame => cases h; exact ⟨_, _, _, .ackFrame, rfl⟩
  | readStatus => cases h; exact ⟨s, _, _, .nothing _, rfl⟩
  | readSnap idx => cases h; exact ⟨s, _, _, .nothing _, rfl⟩

/-- A command but SAMPLE answers a next state in every state. -/
theorem exec_quiet_ok {i : Instr} (hi : i ≠ .sample) (s : State) : ∃ t, exec i s = .next t := by
  cases i with
  | sample => exact absurd rfl hi
  | attach B =>
    show ∃ t, execAttach B s = .next t
    rcases execAttach_cases B s with ⟨-, e⟩ | ⟨-, -, e⟩ | ⟨-, T, -, e⟩ <;> exact ⟨_, e⟩
  | nop | detach | ackFrame | readStatus | readSnap _ => exact ⟨_, rfl⟩

/-- Settles O44: ATTACH and DETACH write playback, ACK_FRAME writes `fr`, and nothing else is
written. -/
theorem onlySampleMovesTime : Obligations.OnlySampleMovesTime := by
  intro i s t hi h
  obtain ⟨u, code, d, hwrite, rfl⟩ := exec_quiet_cases hi h
  cases hwrite with
  | nothing =>
    exact ⟨rfl, rfl, rfl, rfl, rfl, fun _ => rfl,
      fun _ _ => ⟨rfl, rfl, rfl, rfl, rfl, rfl, fun _ => rfl⟩⟩
  | attach => exact ⟨rfl, rfl, rfl, rfl, rfl, fun _ => rfl, fun hne _ => absurd rfl (hne _)⟩
  | detach => exact ⟨rfl, rfl, rfl, rfl, rfl, fun _ => rfl, fun _ hne => absurd rfl hne⟩
  | ackFrame =>
    exact ⟨rfl, rfl, rfl, rfl, rfl, fun hne => absurd rfl hne,
      fun _ _ => ⟨rfl, rfl, rfl, rfl, rfl, rfl, fun _ => rfl⟩⟩

/-! ### SAMPLE, path by path -/

section

variable {s : State}

theorem execSample_of_timeline {t : Timeline} (hatt : s.att = true) (hfin : s.fin = false)
    (htl : s.tl = some t) : execSample s = s.runTimeline t := by
  simp only [execSample, hatt, hfin, htl, Bool.true_eq_false, Bool.false_eq_true, if_false]

theorem State.startOrFinish_of_block {p : Nat} {t : Timeline} (hp : s.blk[s.bidx]? = some p)
    (hnew : newTimeline s.cfg s.cont s.bidx p = .ok t) : s.startOrFinish = s.runTimeline t := by
  simp only [State.startOrFinish, hp, hnew]

theorem State.runTimeline_of_ok {t t' : Timeline} {flip : Bool}
    (hadv : t.advance s.cfg s.cont = .ok (t', flip)) :
    s.runTimeline t = .next (s.playSample t t' flip) := by
  simp only [State.runTimeline, hadv]

theorem State.runTimeline_of_error {t : Timeline} {f : Fault}
    (hadv : t.advance s.cfg s.cont = .error f) : s.runTimeline t = .fault f := by
  simp only [State.runTimeline, hadv]

end

/-- Settles O29: both ways SAMPLE runs the block's timeline, and what that answers does not read the
field it replaces. -/
theorem sampleStartsNextBlock : Obligations.SampleStartsNextBlock := by
  intro s p t hatt hfin htl hp hnew t' flip hadv
  refine ⟨s.playSample t t' flip, ?_, ?_⟩
  · calc exec .sample s
        = s.startOrFinish := execSample_of_no_timeline hatt hfin htl
      _ = s.runTimeline t := State.startOrFinish_of_block hp hnew
      _ = .next (s.playSample t t' flip) := State.runTimeline_of_ok hadv
  · calc exec .sample { s with tl := some t }
        = State.runTimeline { s with tl := some t } t := execSample_of_timeline hatt hfin rfl
      _ = .next (s.playSample t t' flip) := State.runTimeline_of_ok hadv

/-- A colour pair given for each phase is that phase's tag (R185); COMPLETE has no advance. -/
theorem eq_tag {c : Config} {ph : Phase} {lo hi : Colour} (hactive : ph ≠ .complete)
    (hpause : ph = .pause → lo = c.colIdle ∧ hi = c.colIdle)
    (hlead : ph = .lead ∨ ph = .sync1 ∨ ph = .sync2 → lo = c.colLeadLo ∧ hi = c.colLeadHi)
    (hdata : ph = .data → lo = c.colDataLo ∧ hi = c.colDataHi) :
    lo = (tag c ph).1 ∧ hi = (tag c ph).2 := by
  cases ph with
  | pause => exact hpause rfl
  | lead => exact hlead (.inl rfl)
  | sync1 => exact hlead (.inr (.inl rfl))
  | sync2 => exact hlead (.inr (.inr rfl))
  | data => exact hdata rfl
  | complete => exact absurd rfl hactive

/-- A COMPLETE timeline has no advance (R143). -/
theorem Timeline.active_of_advance {c : Config} {m : Memory} {t : Timeline} {r : Timeline × Bool}
    (h : t.advance c m = .ok r) : t.phase ≠ .complete := by
  intro hp
  obtain ⟨-, d, hd, -⟩ := Timeline.advance_cases (t' := r.1) (flip := r.2) h
  exact nomatch (Timeline.dur_of_complete c m hp).symm.trans hd

/-- Settles O30: SAMPLE runs the timeline present, and `playSample` written out is the state given. -/
theorem sampleAdvancesTimeline : Obligations.SampleAdvancesTimeline := by
  intro s t t' flip pol' x sgn lo hi hatt hfin htl hadv hpol hx hsgn hpause hlead hdata
  obtain ⟨rfl, rfl⟩ := eq_tag (Timeline.active_of_advance hadv) hpause hlead hdata
  obtain rfl : pol' = nextPol s.pol flip := by
    rw [hpol, nextPol]
    cases s.pol <;> rfl
  obtain rfl : x = level s.cfg (nextPol s.pol flip) := by
    rw [hx]
    cases nextPol s.pol flip <;> rfl
  obtain rfl : sgn = s.pol.sign := by
    rw [hsgn]
    cases s.pol <;> rfl
  calc exec .sample s
      = s.runTimeline t := execSample_of_timeline hatt hfin htl
    _ = .next (s.playSample t t' flip) := State.runTimeline_of_ok hadv
    _ = _ := by rw [State.playSample_eq, ← hfin]; rfl

section

variable {c : Config} {m : Memory} {t : Timeline}

theorem Timeline.advance_of_dur_error {f : Fault} (hi : t.intact = true)
    (hd : t.dur c m = .error f) : t.advance c m = .error f := by
  simp only [Timeline.advance, if_pos hi, hd]

theorem Timeline.advance_of_not_intact (hi : ¬ t.intact = true) :
    t.advance c m = .error .invariant := by
  rw [Timeline.advance, if_neg hi]

/-- A COMPLETE timeline raises INVARIANT, whether the counters pass their check or not. -/
theorem Timeline.advance_of_complete (hp : t.phase = .complete) :
    t.advance c m = .error .invariant := by
  by_cases hi : t.intact = true
  · exact Timeline.advance_of_dur_error hi (Timeline.dur_of_complete c m hp)
  · exact Timeline.advance_of_not_intact hi

theorem Timeline.dur_of_unreadable (hp : t.phase = .data)
    (hread : m.read (t.base + t.off.toNat) = none) : t.dur c m = .error .oobRead := by
  simp only [Timeline.dur, hp, hread]

end

/-- Settles O32: SAMPLE stops as the advance of its timeline does. -/
theorem sampleFaultsOnViolations : Obligations.SampleFaultsOnViolations := by
  intro s t hatt hfin htl
  have hfault : ∀ {f}, t.advance s.cfg s.cont = .error f → exec .sample s = .fault f :=
    fun hadv => (execSample_of_timeline hatt hfin htl).trans (State.runTimeline_of_error hadv)
  refine ⟨fun hp => ?complete, fun h1 h2 => ?hc, fun hoff => ?off, fun hp hhc hread => ?unreadable⟩
  case complete => exact hfault (Timeline.advance_of_complete hp)
  case hc =>
    refine hfault (Timeline.advance_of_not_intact fun hi => ?_)
    exact ((Timeline.intact_iff t).1 hi).1.elim h1 h2
  case off =>
    refine hfault (Timeline.advance_of_not_intact fun hi => ?_)
    exact absurd ((Timeline.intact_iff t).1 hi).2 (Nat.not_le.2 hoff)
  case unreadable =>
    obtain ⟨-, -, -, -, hoff⟩ := (Timeline.phase_data_iff t).1 hp
    have hi : t.intact = true := (Timeline.intact_iff t).2 ⟨hhc, hoff.le⟩
    exact hfault (Timeline.advance_of_dur_error hi (Timeline.dur_of_unreadable hp hread))

/-! ### The end of every SAMPLE -/

/-- What every SAMPLE leaves: the container and its table, the configuration, the inputs and the
marks. -/
structure SampleKeeps (s t : State) : Prop where
  cfg : t.cfg = s.cfg
  att : t.att = s.att
  cont : t.cont = s.cont
  blk : t.blk = s.blk
  inputs : t.inputs = s.inputs
  faulted : t.faulted = s.faulted
  refusedSeen : t.refusedSeen = s.refusedSeen

/-- Every path of SAMPLE ends by delivering a level through the filter (R180, R189). -/
theorem execSample_delivers {s t : State} (h : execSample s = .next t) :
    ∃ u x ev, t = State.deliver u x ev ∧ SampleKeeps s u ∧ u.filt = s.filt := by
  rcases execSample_cases h with ⟨-, rfl⟩ | ⟨-, -, rfl⟩ | ⟨-, -, -, -, rfl⟩ |
    ⟨-, -, u, u', flip, -, -, rfl⟩
  · exact ⟨_, _, _, State.idleSample_eq .., ⟨rfl, rfl, rfl, rfl, rfl, rfl, rfl⟩, rfl⟩
  · exact ⟨_, _, _, State.idleSample_eq .., ⟨rfl, rfl, rfl, rfl, rfl, rfl, rfl⟩, rfl⟩
  · exact ⟨_, _, _, State.idleSample_eq .., ⟨rfl, rfl, rfl, rfl, rfl, rfl, rfl⟩, rfl⟩
  · exact ⟨_, _, _, State.playSample_eq .., ⟨rfl, rfl, rfl, rfl, rfl, rfl, rfl⟩, rfl⟩

theorem execSample_keeps {s t : State} (h : execSample s = .next t) : SampleKeeps s t := by
  obtain ⟨u, x, ev, rfl, hkeeps, -⟩ := execSample_delivers h
  exact ⟨hkeeps.cfg, hkeeps.att, hkeeps.cont, hkeeps.blk, hkeeps.inputs, hkeeps.faulted,
    hkeeps.refusedSeen⟩

/-- What a SAMPLE says to the host, beside what it did to `snap`, `fr` and `fin` (R238, R239, R241). -/
inductive SampleEvents (s t : State) : List Event → Prop
  | silent (hsnap : t.border.snap = s.border.snap) (hfin : t.fin = s.fin) : SampleEvents s t []
  | wrapped (hfr : t.border.fr = true) (hfin : t.fin = s.fin) :
      SampleEvents s t [.frame t.border.snap]
  | finished {snap : List Colour} (hsnap : t.border.snap = snap) (hfr : t.border.fr = true)
      (hbefore : s.fin = false) (hfin : t.fin = true) : SampleEvents s t [.done, .frame snap]

/-- A record inside a SAMPLE that does not set `fin` emits nothing or one FRAME. -/
theorem SampleEvents.of_record {s t : State} {sgn : Sign} {lo hi : Colour}
    (hborder : t.border = (s.border.record s.cfg s.fin sgn lo hi).1) (hfin : t.fin = s.fin) :
    SampleEvents s t (s.border.record s.cfg s.fin sgn lo hi).2 := by
  rcases Border.record_events s.cfg s.fin sgn lo hi s.border with
    ⟨hev, hsnap, -⟩ | ⟨-, hev, hfr⟩ <;> rw [hev]
  · exact .silent (hborder ▸ hsnap) hfin
  · rw [← hborder] at hfr ⊢
    exact .wrapped hfr hfin

theorem execSample_events {s t : State} (h : execSample s = .next t) :
    ∃ r, t.out = some r ∧ SampleEvents s t r.events := by
  rcases execSample_cases h with ⟨-, rfl⟩ | ⟨-, -, rfl⟩ | ⟨-, hfin, -, -, rfl⟩ |
    ⟨-, -, u, u', flip, -, -, rfl⟩
  · exact ⟨_, rfl, .of_record rfl rfl⟩
  · exact ⟨_, rfl, .of_record rfl rfl⟩
  · rw [State.idleSample_finish]
    obtain ⟨hfr, hsnap, -⟩ := Border.record_fin s.cfg s.pol.sign s.cfg.colIdle s.cfg.colIdle
      (s.border.terminal s.cfg).1
    exact ⟨_, rfl, .finished hsnap hfr hfin rfl⟩
  · rw [State.playSample_eq]
    exact ⟨_, rfl, .of_record rfl rfl⟩

/-- `fin` is set for good (R26). -/
theorem execSample_fin {s t : State} (h : execSample s = .next t) (hfin : s.fin = true) :
    t.fin = true := by
  obtain ⟨r, -, hev⟩ := execSample_events h
  generalize r.events = ev at hev
  cases hev with
  | silent _ e | wrapped _ e => exact e.trans hfin
  | finished _ _ _ e => exact e

/-- Settles O45: what SAMPLE keeps, and that it never clears `fin`. -/
theorem sampleLeavesContainer : Obligations.SampleLeavesContainer := by
  intro s t h
  have hkeeps := execSample_keeps h
  exact ⟨hkeeps.att, hkeeps.blk, hkeeps.inputs, execSample_fin h, fun a => by rw [hkeeps.cont]⟩

/-- A command but SAMPLE responds with no event, and leaves `snap` and a `fin` that is not set. -/
theorem exec_quiet_events {i : Instr} {s t : State} (hi : i ≠ .sample) (h : exec i s = .next t) :
    ∃ r, t.out = some r ∧ r.events = [] ∧ t.border.snap = s.border.snap ∧
      (s.fin = false → t.fin = false) := by
  obtain ⟨u, code, d, hwrite, rfl⟩ := exec_quiet_cases hi h
  cases hwrite with
  | nothing | ackFrame => exact ⟨_, rfl, rfl, rfl, id⟩
  | attach | detach => exact ⟨_, rfl, rfl, rfl, fun _ => rfl⟩

/-- Settles O42: SAMPLE by the three things it can say, every other command by its one response. -/
theorem eventListsOfAStep : Obligations.EventListsOfAStep := by
  intro i s t h
  by_cases hi : i = .sample
  · subst hi
    obtain ⟨r, hout, hev⟩ := execSample_events h
    refine ⟨r, hout, fun hne => absurd rfl hne, ?_⟩
    generalize r.events = ev at hev
    cases hev with
    | silent _ hfin => exact ⟨.inl rfl, by simp [hfin]⟩
    | wrapped _ hfin => exact ⟨.inr (.inl rfl), by simp [hfin]⟩
    | finished hsnap _ hbefore hfin => exact ⟨.inr (.inr (by rw [hsnap])), by simp [hbefore, hfin]⟩
  · obtain ⟨r, hout, hev, -, hfin⟩ := exec_quiet_events hi h
    refine ⟨r, hout, fun _ => hev, .inl hev, ?_⟩
    rw [hev]
    refine ⟨nofun, fun ⟨hbefore, hafter⟩ => ?_⟩
    exact absurd ((hfin hbefore).symm.trans hafter) Bool.false_ne_true

/-- Settles O43: of all that a command can say, only what holds a FRAME goes with a new `snap`. -/
theorem snapChangesOnlyWithFrame : Obligations.SnapChangesOnlyWithFrame := by
  intro i s t h hne
  by_cases hi : i = .sample
  · subst hi
    obtain ⟨r, hout, hev⟩ := execSample_events h
    refine ⟨r, hout, ?_⟩
    generalize r.events = ev at hev
    cases hev with
    | silent hsnap => exact absurd hsnap hne
    | wrapped hfr => exact ⟨List.mem_cons_self, hfr⟩
    | finished hsnap hfr =>
      exact ⟨List.mem_cons_of_mem _ (hsnap ▸ List.mem_cons_self), hfr⟩
  · obtain ⟨-, -, -, hsnap, -⟩ := exec_quiet_events hi h
    exact absurd hsnap hne

/-- Settles O53: READ_SNAP has one path, a bare response with the entry `snapEntry` answers. -/
theorem readSnapCompletesInAnyConfiguration : Obligations.ReadSnapCompletesInAnyConfiguration :=
  fun idx s => ⟨snapEntry s.border.snap idx, fun _ he => snapEntry_of_some he,
    show execReadSnap idx s = .next (s.respond .ok (colourData (snapEntry s.border.snap idx)))
      from rfl⟩

end Sys2Proof.Machine

/-! PROOFS. The invariant of the state: it holds after RESET, every step keeps it, and from it no step
stops (10_state.md R20 to R43, 60_exceptions.md R236). -/

namespace Sys2Proof

/-! ### The checks of R8 the invariant needs -/

theorem Config.w3_of_wf {c : Config} (h : c.wf = true) : c.clkHz ≤ c.lineBudget := by
  simp only [Config.wf, Bool.and_eq_true] at h
  obtain ⟨-, -, hw3, -⟩ := h
  exact of_decide_eq_true hw3

theorem Config.nLines_pos_of_wf {c : Config} (h : c.wf = true) : 0 < c.nLines := by
  simp only [Config.wf, Bool.and_eq_true] at h
  obtain ⟨-, -, -, -, -, -, -, hlines, -⟩ := h
  exact (of_decide_eq_true hlines).1

theorem Config.default_wf : Config.default.wf = true := by decide

end Sys2Proof

namespace Sys2Proof.Machine

/-! ### The border sampler's part -/

/-- The border sampler's part of the state's invariant (R39 to R41, R43). -/
structure Border.Inv (c : Config) (b : Border) : Prop where
  line_lt : b.line.toNat < c.nLines
  bacc_le : b.bacc ≤ c.lineBudget
  buf_length : b.buf.length = c.nStored
  snap_length : b.snap.length = c.nStored

theorem Border.resetWith_inv {c : Config} (h : c.wf = true) : (Border.resetWith c).Inv c where
  line_lt := Config.nLines_pos_of_wf h
  bacc_le := Nat.zero_le _
  buf_length := List.length_replicate
  snap_length := List.length_replicate

theorem Border.record_inv {c : Config} {b : Border} (hwf : c.wf = true) (h : b.Inv c) (fin : Bool)
    (sgn : Sign) (lo hi : Colour) : (b.record c fin sgn lo hi).1.Inv c := by
  obtain ⟨hbuf, hsnap⟩ := Border.record_lengths c fin sgn lo hi b h.buf_length h.snap_length
  exact ⟨Border.record_line_lt c fin sgn lo hi b h.line_lt,
    Border.record_bacc_le c fin sgn lo hi b (Config.w3_of_wf hwf) h.bacc_le, hbuf, hsnap⟩

theorem Border.terminal_inv {c : Config} {b : Border} (h : b.Inv c) : (b.terminal c).1.Inv c where
  line_lt := h.line_lt
  bacc_le := h.bacc_le
  buf_length := List.length_replicate
  snap_length := List.length_replicate

theorem State.Inv.border_inv {s : State} (h : s.Inv) : s.border.Inv s.cfg :=
  ⟨h.line_lt, h.bacc_le, h.buf_length, h.snap_length⟩

/-! ### The writes that keep it -/

theorem State.Inv.respond {s : State} (h : s.Inv) (code : RespCode) (d : Byte) :
    (s.respond code d).Inv := { h with }

theorem State.Inv.refuse {s : State} (h : s.Inv) : s.refuse.Inv := { h with }

theorem State.Inv.takeInput {s : State} (h : s.Inv) (rest : List Input) :
    (s.takeInput rest).Inv := { h with }

theorem State.Inv.setBorder {s : State} (h : s.Inv) {b : Border} (hb : b.Inv s.cfg) :
    (s.setBorder b).Inv :=
  { h with
    line_lt := hb.line_lt
    bacc_le := hb.bacc_le
    buf_length := hb.buf_length
    snap_length := hb.snap_length }

/-- The filter's new state is a binary64 value whatever the old one was. -/
theorem State.Inv.deliver {s : State} (h : s.Inv) (x : Binary64) (ev : List Event) :
    (s.deliver x ev).Inv :=
  { h with filt_valid := Binary64.valid_filterStep _ _ }

/-- A container with its walk, at the start of its playback (R120, R124). -/
theorem State.Inv.restart {s : State} (h : s.Inv) {att : Bool} {m : Memory} {T : List Nat}
    (hm : m.wf = true) (hcap : overCapacity s.cfg m.length = false) (hwalk : walk m.bytes = some T)
    (hdetached : att = false → m = []) : ((s.setContainer att m T).restart).Inv :=
  { h with
    cont_wf := hm
    cont_fits := hcap
    blk_walk := hwalk
    bidx_le := Nat.zero_le _
    detached := fun hatt => ⟨hdetached hatt, rfl, rfl, rfl⟩
    finished := Bool.noConfusion
    timeline := nofun }

theorem overCapacity_zero (c : Config) : overCapacity c 0 = false :=
  overCapacity_eq_false_iff.2 fun _ _ => Nat.zero_le _

/-- The reset state meets the invariant (R260). -/
theorem State.resetWith_inv {c : Config} (h : c.wf = true) : (State.resetWith c).Inv where
  cfg_wf := h
  no_fault := rfl
  cont_wf := rfl
  cont_fits := overCapacity_zero c
  blk_walk := rfl
  bidx_le := Nat.zero_le _
  detached := fun _ => ⟨rfl, rfl, rfl, rfl⟩
  finished := Bool.noConfusion
  timeline := nofun
  line_lt := (Border.resetWith_inv h).line_lt
  bacc_le := (Border.resetWith_inv h).bacc_le
  buf_length := (Border.resetWith_inv h).buf_length
  snap_length := (Border.resetWith_inv h).snap_length
  filt_valid := rfl

/-- Settles O2: field by field, with the default configuration well formed. -/
theorem resetMeetsInvariant : Obligations.ResetMeetsInvariant :=
  ⟨fun _ h => State.resetWith_inv h, State.resetWith_inv Config.default_wf⟩

/-! ### The commands but SAMPLE -/

theorem State.Inv.of_quietWrite {s u : State} {i : Instr} (h : s.Inv) (hwrite : QuietWrite s i u) :
    u.Inv := by
  cases hwrite with
  | nothing => exact h
  | attach hcap hwalk =>
    refine h.restart (Memory.wfFrom_load _ 0) ?_ ?_ Bool.noConfusion
    · rwa [Memory.ofBytes, Memory.load_length]
    · rwa [Memory.ofBytes, Memory.load_bytes]
  | detach => exact h.restart rfl (overCapacity_zero _) rfl fun _ => rfl
  | ackFrame => exact h.setBorder { h.border_inv with }

/-! ### SAMPLE -/

theorem State.Inv.idleSample {s : State} (h : s.Inv) (sgn : Sign) (x : Binary64)
    (before : List Event) : (s.idleSample sgn x before).Inv := by
  rw [State.idleSample_eq]
  exact (h.setBorder (Border.record_inv h.cfg_wf h.border_inv ..)).deliver ..

/-- The finish, with a container whose blocks have all been played (R183). -/
theorem State.Inv.finish {s : State} (h : s.Inv) (hatt : s.att = true) (htl : s.tl = none)
    (hlast : s.blk[s.bidx]? = none) : s.finish.1.Inv := by
  have hend : s.bidx = s.nblk := Nat.le_antisymm h.bidx_le (List.getElem?_eq_none_iff.1 hlast)
  have hset : s.setFin.Inv :=
    { h with
      detached := fun hdet => nomatch hatt.symm.trans hdet
      finished := fun _ => ⟨hend, htl⟩ }
  exact hset.setBorder (Border.terminal_inv h.border_inv)

/-- The timeline a SAMPLE advances: the one present, or the one it builds, meets its invariant. -/
theorem State.Inv.timeline_of_run {s : State} (h : s.Inv) {u : Timeline}
    (hu : s.tl = some u ∨ (s.tl = none ∧ ∃ p, s.blk[s.bidx]? = some p ∧
      newTimeline s.cfg s.cont s.bidx p = .ok u)) :
    ∃ p, s.blk[s.bidx]? = some p ∧ u.Inv s.cfg s.cont s.bidx p := by
  rcases hu with htl | ⟨-, p, hp, hnew⟩
  · exact h.timeline u htl
  · obtain ⟨u', hnew', -, hinv⟩ := newTimeline_of_block h.cfg_wf h.cont_wf h.blk_walk hp s.bidx
    obtain rfl : u' = u := Except.ok.inj (hnew'.symm.trans hnew)
    exact ⟨p, hp, hinv⟩

/-- An advance inside a SAMPLE (R184, R186): the block goes on, or is done and the next one is due. -/
theorem State.Inv.playSample {s : State} (h : s.Inv) (hatt : s.att = true) (hfin : s.fin = false)
    {u u' : Timeline} {flip : Bool} {p : Nat} (hp : s.blk[s.bidx]? = some p)
    (hu : u.Inv s.cfg s.cont s.bidx p) (hadv : u.advance s.cfg s.cont = .ok (u', flip)) :
    (s.playSample u u' flip).Inv := by
  have hidx : s.bidx < s.nblk := (List.getElem?_eq_some_iff.1 hp).1
  have hnotdet : ∀ {P : Prop}, s.att = false → P := fun hdet => nomatch hatt.symm.trans hdet
  have hnotfin : ∀ {P : Prop}, s.fin = true → P := fun hend => nomatch hfin.symm.trans hend
  have hplay : State.Inv { s with
      tl := if u'.phase = .complete then none else some u'
      bidx := if u'.phase = .complete then s.bidx + 1 else s.bidx
      pol := nextPol s.pol flip } := by
    rcases hu.advance_cases h.cfg_wf h.cont_wf hadv with ⟨hinv, -⟩ | ⟨-, hplayed⟩
    · rw [if_neg hinv.active, if_neg hinv.active]
      exact { h with
        detached := hnotdet
        finished := hnotfin
        timeline := fun t ht => ⟨p, hp, Option.some.inj ht ▸ hinv⟩ }
    · rw [if_pos hplayed.complete, if_pos hplayed.complete]
      exact { h with
        bidx_le := hidx
        detached := hnotdet
        finished := hnotfin
        timeline := nofun }
  rw [State.playSample_eq]
  exact (hplay.setBorder (Border.record_inv h.cfg_wf h.border_inv ..)).deliver _ _

theorem State.Inv.of_execSample {s t : State} (h : s.Inv) (hexec : execSample s = .next t) :
    t.Inv := by
  rcases execSample_cases hexec with ⟨-, rfl⟩ | ⟨-, -, rfl⟩ | ⟨hatt, -, htl, hlast, rfl⟩ |
    ⟨hatt, hfin, u, u', flip, hu, hadv, rfl⟩
  · exact h.idleSample ..
  · exact h.idleSample ..
  · exact (h.finish hatt htl hlast).idleSample ..
  · obtain ⟨p, hp, hinv⟩ := h.timeline_of_run hu
    exact h.playSample hatt hfin hp hinv hadv

/-- From the invariant SAMPLE answers a next state (R230, R236). -/
theorem State.Inv.execSample_ok {s : State} (h : s.Inv) : ∃ t, execSample s = .next t := by
  have run : ∀ {u p}, u.Inv s.cfg s.cont s.bidx p → ∃ t, s.runTimeline u = .next t := by
    intro u p hu
    obtain ⟨u', flip, hadv⟩ := hu.advance_ok
    exact ⟨_, State.runTimeline_of_ok hadv⟩
  cases hatt : s.att
  · exact ⟨_, execSample_of_detached hatt⟩
  cases hfin : s.fin
  · cases htl : s.tl with
    | none =>
      rw [execSample_of_no_timeline hatt hfin htl]
      cases hp : s.blk[s.bidx]? with
      | none => exact ⟨_, State.startOrFinish_of_no_block (List.getElem?_eq_none_iff.1 hp)⟩
      | some p =>
        obtain ⟨u, hnew, -, hu⟩ := newTimeline_of_block h.cfg_wf h.cont_wf h.blk_walk hp s.bidx
        rw [State.startOrFinish_of_block hp hnew]
        exact run hu
    | some u =>
      obtain ⟨p, -, hu⟩ := h.timeline u htl
      rw [execSample_of_timeline hatt hfin htl]
      exact run hu
  · exact ⟨_, execSample_of_finished hatt hfin⟩

/-- Settles O31: SAMPLE answers, and ends by delivering a level through the filter. -/
theorem sampleAlwaysResponds : Obligations.SampleAlwaysResponds := by
  intro s h
  obtain ⟨t, hexec⟩ := h.execSample_ok
  have hinv := h.of_execSample hexec
  obtain ⟨u, x, ev, rfl, hkeeps, -⟩ := execSample_delivers hexec
  exact ⟨_, _, _, hexec, rfl, rfl, rfl, rfl, rfl, by rw [← hkeeps.cfg], hinv⟩

/-! ### Every step -/

theorem State.Inv.of_exec {s t : State} {i : Instr} (h : s.Inv) (hexec : exec i s = .next t) :
    t.Inv := by
  by_cases hi : i = .sample
  · subst hi
    exact h.of_execSample hexec
  · obtain ⟨u, code, d, hwrite, rfl⟩ := exec_quiet_cases hi hexec
    exact (h.of_quietWrite hwrite).respond code d

theorem State.Inv.exec_ok {s : State} (h : s.Inv) (i : Instr) : ∃ t, exec i s = .next t := by
  by_cases hi : i = .sample
  · subst hi
    exact h.execSample_ok
  · exact exec_quiet_ok hi s

/-- With no input pending the block holds its state (log 9). -/
theorem step_of_no_input {s : State} (hwf : s.cfg.wf = true) (hrun : s.faulted = false)
    (hin : s.inputs = []) : step s = .next s := by
  simp only [step, hwf, hin, hrun, if_true, Bool.false_eq_true, if_false]

/-- Everything a step can do outside the fault state of a well-formed configuration (R6): the reset
input, a command, a reserved word, or nothing. -/
theorem step_cases {s : State} (hwf : s.cfg.wf = true) (hrun : s.faulted = false) :
    (∃ rest, s.inputs = .reset :: rest ∧ step s = .next (s.takeInput rest).assertReset) ∨
    (∃ w side rest i, s.inputs = .command w side :: rest ∧ step s = exec i (s.takeInput rest)) ∨
    (∃ w side rest, s.inputs = .command w side :: rest ∧ step s = .next (s.takeInput rest).refuse) ∨
    (s.inputs = [] ∧ step s = .next s) := by
  match hin : s.inputs with
  | [] => exact .inr (.inr (.inr ⟨rfl, step_of_no_input hwf hrun hin⟩))
  | .reset :: rest => exact .inl ⟨rest, rfl, step_of_reset hwf hin⟩
  | .command w side :: rest =>
    have hstep := step_of_command hwf hrun hin
    match hdec : decode w side with
    | .ok i =>
      exact .inr (.inl ⟨w, side, rest, i, rfl, hstep.trans (stepCommand_of_decode_ok hdec _)⟩)
    | .error r =>
      exact .inr (.inr (.inl ⟨w, side, rest, rfl,
        hstep.trans (stepCommand_of_decode_error hdec _)⟩))

/-- Settles O40: the reset state, every command, a refusal and an idle step meet the invariant. -/
theorem everyStepKeepsInvariant : Obligations.EveryStepKeepsInvariant := by
  intro s t h hstep
  rcases step_cases h.cfg_wf h.no_fault with ⟨rest, -, e⟩ | ⟨w, side, rest, i, -, e⟩ |
    ⟨w, side, rest, -, e⟩ | ⟨-, e⟩ <;> rw [e] at hstep
  · cases hstep
    exact { State.resetWith_inv h.cfg_wf with }
  · exact (h.takeInput rest).of_exec hstep
  · cases hstep
    exact (h.takeInput rest).refuse
  · cases hstep
    exact h

/-- Settles O41: the same four cases each answer a next state. -/
theorem noStepStopsFromInvariant : Obligations.NoStepStopsFromInvariant := by
  intro s h
  rcases step_cases h.cfg_wf h.no_fault with ⟨rest, -, e⟩ | ⟨w, side, rest, i, -, e⟩ |
    ⟨w, side, rest, -, e⟩ | ⟨-, e⟩
  · exact ⟨_, e⟩
  · rw [e]
    exact (h.takeInput rest).exec_ok i
  · exact ⟨_, e⟩
  · exact ⟨_, e⟩

end Sys2Proof.Machine

/-! PROOFS. What every step leaves, and where a step stops: the configuration, the marks, the fault
state (00_scope.md R7, R8; 10_state.md R49; 60_exceptions.md R235, R236). -/

namespace Sys2Proof

/-- W2, interval by interval. -/
theorem Config.clkHz_le_of_wf {c : Config} (h : c.wf = true) :
    c.clkHz ≤ c.pauseT * c.srHz ∧ c.clkHz ≤ c.leadT * c.srHz ∧ c.clkHz ≤ c.sync1T * c.srHz ∧
      c.clkHz ≤ c.sync2T * c.srHz ∧ c.clkHz ≤ c.bit0T * c.srHz ∧ c.clkHz ≤ c.bit1T * c.srHz := by
  have hmin : c.clkHz ≤ c.minT * c.srHz := of_decide_eq_true (Config.w2_of_wf h)
  have key : ∀ {d}, c.minT ≤ d → c.clkHz ≤ d * c.srHz := fun hd =>
    le_trans hmin (Nat.mul_le_mul_right _ hd)
  unfold Config.minT at key
  exact ⟨key (by omega), key (by omega), key (by omega), key (by omega), key (by omega),
    key (by omega)⟩

theorem Config.w6_of_wf {c : Config} (h : c.wf = true) : c.bit0T < c.bit1T := by
  simp only [Config.wf, Bool.and_eq_true] at h
  obtain ⟨-, -, -, -, -, hw6, -⟩ := h
  exact of_decide_eq_true hw6

/-- Settles O54: each value is a field of `Config.default`; `LEVEL` is a bit pattern read out. -/
theorem resetParametersHaveTableValues : Obligations.ResetParametersHaveTableValues :=
  ⟨rfl, rfl, rfl, rfl, rfl, rfl, rfl, rfl, rfl, rfl, rfl, rfl, rfl, rfl, rfl, rfl, rfl,
    show Config.tenth = Binary64.ofBits 0x3FB999999999999A by decide⟩

end Sys2Proof

namespace Sys2Proof.Machine

/-! ### Where a step stops -/

theorem step_of_not_wf {s : State} (h : ¬ s.cfg.wf = true) : step s = .refused .configRefused := by
  rw [step, if_neg h]

/-- Settles O47: each clause contradicts one of the checks W1 to W6. -/
theorem illFormedConfigurationIsRefused : Obligations.IllFormedConfigurationIsRefused := by
  intro s hill
  refine step_of_not_wf fun hwf => ?_
  obtain ⟨hpause, hlead, hsync1, hsync2, hbit0, hbit1⟩ := Config.clkHz_le_of_wf hwf
  have hclk := Config.clkHz_pos_of_wf hwf
  have hline : s.cfg.clkHz ≤ s.cfg.lineT * s.cfg.srHz := Config.w3_of_wf hwf
  have hw6 := Config.w6_of_wf hwf
  simp only [Config.wf, Bool.and_eq_true] at hwf
  obtain ⟨hw1, -, -, hw4, hw5, -⟩ := hwf
  have hw1 := of_decide_eq_true hw1
  have hw4 := of_decide_eq_true hw4
  have hw5 : s.cfg.nStored ≤ s.cfg.nLines := of_decide_eq_true hw5
  omega

/-- No step but the reset input leaves the fault state (R236). -/
theorem step_of_faulted {s : State} (hwf : s.cfg.wf = true) (hfault : s.faulted = true)
    (hin : ∀ rest, s.inputs ≠ .reset :: rest) : step s = .fault .faultState := by
  match hinputs : s.inputs with
  | [] => simp only [step, hwf, hinputs, hfault, if_true]
  | .reset :: rest => exact absurd hinputs (hin rest)
  | .command _ _ :: _ => simp only [step, hwf, hinputs, hfault, if_true]

theorem State.after_of_fault {s : State} {f : Fault} (h : step s = .fault f) :
    s.after = { s with faulted := true } := by
  simp only [State.after, h]

/-- Settles O48: in the fault state the step faults, and setting the mark again changes nothing. -/
theorem faultStateIsFinal : Obligations.FaultStateIsFinal := by
  refine fun s hwf => ⟨fun hfault hin => ?_, fun f hstep => State.after_of_fault hstep⟩
  have hstep := step_of_faulted hwf hfault hin
  refine ⟨hstep, ?_⟩
  calc s.after
      = { s with faulted := true } := State.after_of_fault hstep
    _ = s := by rw [← hfault]

/-- Settles O49: the step with no input pending. -/
theorem idleStepHoldsState : Obligations.IdleStepHoldsState :=
  fun _ hwf hrun hin => step_of_no_input hwf hrun hin

/-! ### What every step leaves -/

/-- No command changes the configuration or a mark. -/
theorem exec_keeps_marks {i : Instr} {s t : State} (h : exec i s = .next t) :
    t.cfg = s.cfg ∧ t.refusedSeen = s.refusedSeen ∧ t.faulted = s.faulted := by
  by_cases hi : i = .sample
  · subst hi
    have hkeeps := execSample_keeps h
    exact ⟨hkeeps.cfg, hkeeps.refusedSeen, hkeeps.faulted⟩
  · obtain ⟨u, code, d, hwrite, rfl⟩ := exec_quiet_cases hi h
    cases hwrite with
    | nothing | attach | detach | ackFrame => exact ⟨rfl, rfl, rfl⟩

/-- Settles O46: by what the step takes; in the fault state only the reset input answers a state. -/
theorem configurationAndMarksPersist : Obligations.ConfigurationAndMarksPersist := by
  intro s t hstep
  have hwf : s.cfg.wf = true := by
    by_contra hill
    exact nomatch (step_of_not_wf hill).symm.trans hstep
  by_cases hreset : ∃ rest, s.inputs = .reset :: rest
  · obtain ⟨rest, hin⟩ := hreset
    rw [step_of_reset hwf hin] at hstep
    cases hstep
    exact ⟨rfl, fun hne => absurd hin (hne rest)⟩
  · have hne : ∀ rest, s.inputs ≠ .reset :: rest := fun rest hin => hreset ⟨rest, hin⟩
    have hrun : s.faulted = false := by
      by_contra hfault
      exact nomatch
        (step_of_faulted hwf (Bool.eq_true_of_not_eq_false hfault) hne).symm.trans hstep
    rcases step_cases hwf hrun with ⟨rest, hin, -⟩ | ⟨w, side, rest, i, -, e⟩ |
      ⟨w, side, rest, -, e⟩ | ⟨-, e⟩
    · exact absurd hin (hne rest)
    · rw [e] at hstep
      obtain ⟨hcfg, hrefused, hfaulted⟩ := exec_keeps_marks hstep
      exact ⟨hcfg, fun _ => ⟨fun hseen => hrefused.trans hseen, hfaulted⟩⟩
    · rw [e] at hstep
      cases hstep
      exact ⟨rfl, fun _ => ⟨fun _ => rfl, rfl⟩⟩
    · rw [e] at hstep
      cases hstep
      exact ⟨rfl, fun _ => ⟨id, rfl⟩⟩

/-! ### SAMPLEs after the finish (42_encoder.md R192) -/

/-- One more SAMPLE. -/
theorem sampleN_succ {n : Nat} {s t u : State} (ht : sampleN n s = some t)
    (hu : execSample t = .next u) : sampleN (n + 1) s = some u := by
  have hexec : exec .sample t = .next u := hu
  simp only [sampleN, ht, hexec]

/-- What stays once playback has finished in `s`. -/
structure Frozen (s t : State) : Prop where
  cfg : t.cfg = s.cfg
  att : t.att = true
  fin : t.fin = true
  bidx : t.bidx = s.bidx
  tl : t.tl = s.tl
  pol : t.pol = s.pol
  fr : t.border.fr = s.border.fr
  snap : t.border.snap = s.border.snap

/-- A SAMPLE after the finish stays frozen, and says nothing but the level. -/
theorem Frozen.sample {s t : State} (h : Frozen s t) :
    ∃ u, execSample t = .next u ∧ Frozen s u ∧
      ∃ r v, u.out = some r ∧ r.events = [] ∧ r.sample = some v ∧ v.x = level s.cfg s.pol := by
  have hexec := execSample_of_finished h.att h.fin
  rw [State.idleSample_of_finished h.fin] at hexec
  obtain ⟨hfr, hsnap, -⟩ :=
    Border.record_fin t.cfg t.pol.sign t.cfg.colIdle t.cfg.colIdle t.border
  refine ⟨_, hexec, ?_, _, _, rfl, rfl, rfl, ?_⟩
  · exact ⟨h.cfg, h.att, h.fin, h.bidx, h.tl, h.pol, hfr.trans h.fr, hsnap.trans h.snap⟩
  · show level t.cfg t.pol = level s.cfg s.pol
    rw [h.cfg, h.pol]

theorem sampleN_of_finished {s : State} (hatt : s.att = true) (hfin : s.fin = true) (n : Nat) :
    ∃ t, sampleN n s = some t ∧ Frozen s t ∧
      (0 < n → ∃ r v, t.out = some r ∧ r.events = [] ∧ r.sample = some v ∧
        v.x = level s.cfg s.pol) := by
  induction n with
  | zero => exact ⟨s, rfl, ⟨rfl, hatt, hfin, rfl, rfl, rfl, rfl, rfl⟩, nofun⟩
  | succ n ih =>
    obtain ⟨t, ht, hfrozen, -⟩ := ih
    obtain ⟨u, hu, hfrozen, hout⟩ := hfrozen.sample
    exact ⟨u, sampleN_succ ht hu, hfrozen, fun _ => hout⟩

/-- Settles O33: by induction on the number of SAMPLEs, each of which stays frozen. -/
theorem finishedOutputIsFrozen : Obligations.FinishedOutputIsFrozen := by
  intro s n hatt hfin
  obtain ⟨t, ht, h, hout⟩ := sampleN_of_finished hatt hfin n
  refine ⟨t, ht, h.att, h.fin, h.bidx, h.tl, h.pol, h.fr, h.snap, fun hn => ?_⟩
  obtain ⟨r, v, hr, hev, hv, hx⟩ := hout hn
  refine ⟨r, v, hr, hev, hv, hx.trans ?_⟩
  cases s.pol <;> rfl

end Sys2Proof.Machine

/-! PROOFS. The exact time of a timeline (41_timeline.md R151 to R155). -/

namespace Sys2Proof.Machine

/-! ### The half-cycles of a byte (R149, R151) -/

theorem bitTicks_heard {c : Config} (hwf : c.wf = true) (b : Byte) (k : Nat) :
    heardBit c (bitTicks c b k) = b.getLsbD k := by
  have hne : c.bit0T ≠ c.bit1T := (Config.w6_of_wf hwf).ne
  unfold heardBit bitTicks
  cases b.getLsbD k
  · exact decide_eq_false hne
  · exact decide_eq_true rfl

/-- After `j` half-cycles of a byte: bit `7 - j/2`, its first half-cycle where `j` is even. -/
theorem Timeline.dataEvent_iterate {t : Timeline} (hbit : t.bitx = 7) (hhc : t.hc = 2) {j : Nat}
    (hj : j < 16) :
    Timeline.dataEvent^[j] t =
      { t with bitx := BitVec.ofNat 3 (7 - j / 2), hc := BitVec.ofNat 2 (2 - j % 2) } := by
  induction j with
  | zero =>
    show t = { t with bitx := 7, hc := 2 }
    rw [← hbit, ← hhc]
  | succ j ih =>
    rw [Function.iterate_succ_apply', ih (by omega)]
    rcases Nat.mod_two_eq_zero_or_one j with heven | hodd
    · rw [heven, Timeline.dataEvent_first_half rfl, show (j + 1) / 2 = j / 2 by omega,
        show (j + 1) % 2 = 1 by omega]
      rfl
    · have hne : BitVec.ofNat 3 (7 - j / 2) ≠ 0 := by
        intro h
        have := congrArg BitVec.toNat h
        simp at this
        omega
      have hpred : BitVec.ofNat 3 (7 - j / 2) - 1 = BitVec.ofNat 3 (7 - (j + 1) / 2) := by
        apply BitVec.eq_of_toNat_eq
        simp
        omega
      rw [hodd, Timeline.dataEvent_next_bit rfl hne, hpred, show (j + 1) % 2 = 0 by omega]
      rfl

/-- Settles O25: the threshold of a bit is heard as that bit, and the half-cycles of a byte by their
number. -/
theorem playedBitsAreHeardMsbFirst : Obligations.PlayedBitsAreHeardMsbFirst := by
  refine ⟨fun c m t b d hwf hp hb hd => ?heard, fun t j hbit hhc hj => ?order,
    fun t hbit hhc => ?next⟩
  case heard =>
    obtain rfl : bitTicks c b t.bitx.toNat = d :=
      Except.ok.inj ((Timeline.dur_of_data c m hp hb).symm.trans hd)
    exact bitTicks_heard hwf b _
  case order =>
    rw [Timeline.dataEvent_iterate hbit hhc hj]
    refine ⟨rfl, ?_, ?_⟩
    · show (BitVec.ofNat 3 (7 - j / 2)).toNat = _
      rw [BitVec.toNat_ofNat]
      omega
    · show (BitVec.ofNat 2 (2 - j % 2)).toNat = _
      rw [BitVec.toNat_ofNat]
      omega
  case next =>
    rw [Function.iterate_succ_apply', Timeline.dataEvent_iterate hbit hhc (j := 15) (by omega),
      Timeline.dataEvent_last_bit rfl rfl, ← hbit, ← hhc]

/-! ### The finished intervals of a byte -/

theorem highBitsTicks_succ_le (c : Config) (b : Byte) {n : Nat} (h : n < 8) :
    highBitsTicks c b (n + 1) ≤ byteTicks c b := by
  have hmono : Monotone (highBitsTicks c b) :=
    monotone_nat_of_le_succ fun k => Nat.le_add_right _ _
  exact hmono h

theorem bytesTicks_mono (c : Config) (m : Memory) (a : Nat) : Monotone (bytesTicks c m a) :=
  monotone_nat_of_le_succ fun _ => Nat.le_add_right _ _

/-- Bit `bitx` adds its two half-cycles to those of the bits above it. -/
theorem highBits_of_bit (c : Config) (b : Byte) (bitx : BitVec 3) :
    highBitsTicks c b (7 - bitx.toNat + 1) =
      highBitsTicks c b (7 - bitx.toNat) + 2 * bitTicks c b bitx.toNat := by
  have := bitx.isLt
  rw [highBitsTicks, show 7 - (7 - bitx.toNat) = bitx.toNat by omega]

section

variable {c : Config} {m : Memory} {i p : Nat} {t : Timeline}

/-! ### One advance -/

theorem Timeline.elapsed_setAcc (c : Config) (m : Memory) (i a : Nat) (t : Timeline) :
    (t.setAcc a).elapsed c m i = t.elapsed c m i := rfl

/-- The lead half-cycles left are among those of the block. -/
theorem Timeline.Inv.leadRem_le (h : t.Inv c m i p) :
    t.leadRem.toNat ≤ (leadCount c (byteAt m t.base)).toNat := by
  obtain ⟨flag, hflag, hle, -⟩ := h.lead_le
  rwa [h.base_eq, byteAt_of_read hflag]

/-- In DATA the threshold is that of the current bit. -/
theorem Timeline.dur_eq_bitTicks {d : Nat} (hp : t.phase = .data) (hd : t.dur c m = .ok d) :
    bitTicks c (byteAt m (t.base + t.off.toNat)) t.bitx.toNat = d := by
  rcases Timeline.dur_cases hd with ⟨hp', -⟩ | ⟨hp', -⟩ | ⟨hp', -⟩ | ⟨hp', -⟩ | ⟨-, b, hb, rfl⟩
  · exact nomatch hp.symm.trans hp'
  · exact nomatch hp.symm.trans hp'
  · exact nomatch hp.symm.trans hp'
  · exact nomatch hp.symm.trans hp'
  · rw [byteAt_of_read hb]

/-! The events, each with the interval it finishes and the flip it makes. -/

theorem Timeline.Inv.elapsed_pause (h : t.Inv c m i p) (hp : t.phase = .pause) (a : Nat) :
    ({ t with acc := a, pausePend := false } : Timeline).elapsed c m i =
        t.elapsed c m i + c.pauseT ∧
      ({ t with acc := a, pausePend := false } : Timeline).flips c m = t.flips c m := by
  have hpause := (Timeline.phase_pause_iff t).1 hp
  obtain ⟨hi, -⟩ := h.pause_first hpause
  refine ⟨?_, rfl⟩
  simp only [Timeline.elapsed, hpause, hi, Bool.true_eq_false, and_true, and_false, if_true, if_false]
  omega

theorem Timeline.Inv.elapsed_lead (h : t.Inv c m i p) (hp : t.phase = .lead) (a : Nat) :
    ({ t with acc := a, leadRem := t.leadRem - 1 } : Timeline).elapsed c m i =
        t.elapsed c m i + c.leadT ∧
      ({ t with acc := a, leadRem := t.leadRem - 1 } : Timeline).flips c m = t.flips c m + 1 := by
  obtain ⟨-, hlead⟩ := (Timeline.phase_lead_iff t).1 hp
  have hle := h.leadRem_le
  have hrem : (t.leadRem - 1).toNat = t.leadRem.toNat - 1 := by bv_omega
  have hcount : (leadCount c (byteAt m t.base)).toNat - (t.leadRem.toNat - 1) =
      (leadCount c (byteAt m t.base)).toNat - t.leadRem.toNat + 1 := by omega
  simp only [Timeline.elapsed, Timeline.flips, hrem, hcount, Nat.succ_mul]
  omega

theorem Timeline.elapsed_sync1 (hp : t.phase = .sync1) (a : Nat) :
    ({ t with acc := a, sync1Pend := false } : Timeline).elapsed c m i =
        t.elapsed c m i + c.sync1T ∧
      ({ t with acc := a, sync1Pend := false } : Timeline).flips c m = t.flips c m + 1 := by
  obtain ⟨-, -, hsync1⟩ := (Timeline.phase_sync1_iff t).1 hp
  simp only [Timeline.elapsed, Timeline.flips, hsync1, Bool.false_eq_true, if_true, if_false,
    Bool.not_true, Bool.not_false, Bool.toNat_true, Bool.toNat_false]
  omega

theorem Timeline.elapsed_sync2 (hp : t.phase = .sync2) (a : Nat) :
    ({ t with acc := a, sync2Pend := false } : Timeline).elapsed c m i =
        t.elapsed c m i + c.sync2T ∧
      ({ t with acc := a, sync2Pend := false } : Timeline).flips c m = t.flips c m + 1 := by
  obtain ⟨-, -, -, hsync2⟩ := (Timeline.phase_sync2_iff t).1 hp
  simp only [Timeline.elapsed, Timeline.flips, hsync2, Bool.false_eq_true, if_true, if_false,
    Bool.not_true, Bool.not_false, Bool.toNat_true, Bool.toNat_false]
  omega

theorem Timeline.elapsed_first_half (hhc : t.hc = 2) (a : Nat) :
    ({ t with acc := a, hc := 1 } : Timeline).elapsed c m i =
        t.elapsed c m i + bitTicks c (byteAt m (t.base + t.off.toNat)) t.bitx.toNat ∧
      ({ t with acc := a, hc := 1 } : Timeline).flips c m = t.flips c m + 1 := by
  have hne : ¬ (2 : BitVec 2) = 1 := by decide
  simp only [Timeline.elapsed, Timeline.flips, hhc, hne, if_true, if_false, Nat.add_zero,
    and_self]

theorem Timeline.elapsed_next_bit (hhc : t.hc = 1) (hbit : t.bitx ≠ 0) (a : Nat) :
    ({ t with acc := a, hc := 2, bitx := t.bitx - 1 } : Timeline).elapsed c m i =
        t.elapsed c m i + bitTicks c (byteAt m (t.base + t.off.toNat)) t.bitx.toNat ∧
      ({ t with acc := a, hc := 2, bitx := t.bitx - 1 } : Timeline).flips c m =
        t.flips c m + 1 := by
  have hne : ¬ (2 : BitVec 2) = 1 := by decide
  have hlt := t.bitx.isLt
  have hpred : 7 - (t.bitx - 1).toNat = 7 - t.bitx.toNat + 1 := by bv_omega
  simp only [Timeline.elapsed, Timeline.flips, hhc, hne, hpred, highBits_of_bit, if_true, if_false]
  omega

/-- The last bit completes its byte; the next one, whatever it holds, has no finished interval. -/
theorem Timeline.elapsed_last_bit (hhc : t.hc = 1) (hbit : t.bitx = 0)
    (hoff : t.off.toNat < t.len.toNat) (a : Nat) :
    ({ t with acc := a, hc := 2, bitx := 7, off := t.off + 1 } : Timeline).elapsed c m i =
        t.elapsed c m i + bitTicks c (byteAt m (t.base + t.off.toNat)) t.bitx.toNat ∧
      ({ t with acc := a, hc := 2, bitx := 7, off := t.off + 1 } : Timeline).flips c m =
        t.flips c m + 1 := by
  have hne : ¬ (2 : BitVec 2) = 1 := by decide
  have hlt := t.len.isLt
  have hsucc : (t.off + 1).toNat = t.off.toNat + 1 := by bv_omega
  have hbyte := highBits_of_bit c (byteAt m (t.base + t.off.toNat)) t.bitx
  rw [hbit] at hbyte
  have hseven : (7 : BitVec 3).toNat = 7 := rfl
  have hzero : (0 : BitVec 3).toNat = 0 := rfl
  simp only [Timeline.elapsed, Timeline.flips, hhc, hbit, hne, hsucc, hseven, hzero, bytesTicks,
    byteTicks, highBitsTicks, Nat.sub_self, if_true, if_false] at hbyte ⊢
  omega

/-- An event adds its interval to the finished ones, keeps the remainder, and counts its flip. -/
theorem Timeline.Inv.elapsed_event (h : t.Inv c m i p) {t' : Timeline} {flip : Bool} {d : Nat}
    (hadv : t.advance c m = .ok (t', flip)) (hd : t.dur c m = .ok d)
    (hge : d * c.srHz ≤ t.acc + c.clkHz) :
    t'.acc = t.acc + c.clkHz - d * c.srHz ∧ t'.elapsed c m i = t.elapsed c m i + d ∧
      t'.flips c m = t.flips c m + flip.toNat := by
  obtain ⟨-, d', a, hd', hcases⟩ := Timeline.advance_events hadv
  obtain rfl : d = d' := Except.ok.inj (hd.symm.trans hd')
  obtain ⟨hlt, -⟩ | ⟨-, rfl, hevent⟩ := hcases
  · omega
  generalize t.acc + c.clkHz - d * c.srHz = a at hevent
  rcases hevent with ⟨hp, rfl, rfl⟩ | ⟨hp, rfl, rfl⟩ | ⟨hp, rfl, rfl⟩ | ⟨hp, rfl, rfl⟩ |
    ⟨hp, hhc, rfl, rfl⟩ | ⟨hp, hhc, hbit, rfl, rfl⟩ | ⟨hp, hhc, hbit, rfl, rfl⟩
  · obtain rfl : c.pauseT = d := Except.ok.inj ((Timeline.dur_of_pause c m hp).symm.trans hd)
    exact ⟨rfl, h.elapsed_pause hp a⟩
  · obtain rfl : c.leadT = d := Except.ok.inj ((Timeline.dur_of_lead c m hp).symm.trans hd)
    exact ⟨rfl, h.elapsed_lead hp a⟩
  · obtain rfl : c.sync1T = d := Except.ok.inj ((Timeline.dur_of_sync1 c m hp).symm.trans hd)
    exact ⟨rfl, Timeline.elapsed_sync1 hp a⟩
  · obtain rfl : c.sync2T = d := Except.ok.inj ((Timeline.dur_of_sync2 c m hp).symm.trans hd)
    exact ⟨rfl, Timeline.elapsed_sync2 hp a⟩
  · obtain rfl := Timeline.dur_eq_bitTicks hp hd
    exact ⟨rfl, Timeline.elapsed_first_half hhc a⟩
  · obtain rfl := Timeline.dur_eq_bitTicks hp hd
    obtain ⟨-, -, -, -, hoff⟩ := (Timeline.phase_data_iff t).1 hp
    exact ⟨rfl, Timeline.elapsed_last_bit hhc hbit hoff a⟩
  · obtain rfl := Timeline.dur_eq_bitTicks hp hd
    exact ⟨rfl, Timeline.elapsed_next_bit hhc hbit a⟩

/-- One advance adds one sample period to the finished intervals and the accumulator, and counts its
flip. -/
theorem Timeline.Inv.elapsed_advance (h : t.Inv c m i p) {t' : Timeline} {flip : Bool}
    (hadv : t.advance c m = .ok (t', flip)) :
    t'.elapsed c m i * c.srHz + t'.acc = t.elapsed c m i * c.srHz + t.acc + c.clkHz ∧
      t'.flips c m = t.flips c m + flip.toNat := by
  obtain ⟨-, d, -, hd, ⟨-, rfl, rfl⟩ | ⟨hge, -⟩⟩ := Timeline.advance_events hadv
  · exact ⟨by rw [Timeline.elapsed_setAcc, Timeline.setAcc_acc, Nat.add_assoc], rfl⟩
  · obtain ⟨hacc, helapsed, hflips⟩ := h.elapsed_event hadv hd hge
    refine ⟨?_, hflips⟩
    rw [helapsed, hacc, Nat.add_mul]
    omega

/-! ### The ends of a block -/

/-- Nothing has been played of a timeline just built. -/
theorem newTimeline_start (hnew : newTimeline c m i p = .ok t) :
    t.elapsed c m i = 0 ∧ t.flips c m = 0 ∧ t.acc = 0 := by
  obtain ⟨L, flag, -, hflag, rfl⟩ := newTimeline_cases hnew
  have hcount : byteAt m (p + 2) = flag := byteAt_of_read hflag
  simp [Timeline.elapsed, Timeline.flips, hcount, bytesTicks, highBitsTicks]
  omega

/-- What is left of a block that has been played: its closed forms (R154, R155). -/
theorem Timeline.Played.elapsed (h : t.Played m p) :
    t.elapsed c m i = blockTicks c m i p t.len.toNat ∧
      t.flips c m = (leadCount c (byteAt m (p + 2))).toNat + 2 + 16 * t.len.toNat := by
  obtain ⟨hpause, hlead, hsync1, hsync2, -⟩ := (Timeline.phase_complete_iff t).1 h.complete
  simp [Timeline.elapsed, Timeline.flips, blockTicks, hpause, hlead, hsync1, hsync2, h.base_eq,
    h.off_eq, h.bitx_eq, h.hc_eq, highBitsTicks]

/-- An active timeline has a byte left to play. -/
theorem Timeline.Inv.off_lt (h : t.Inv c m i p) : t.off.toNat < t.len.toNat := by
  by_contra hend
  have hsync2 : t.sync2Pend = false := by
    by_contra hpend
    have hoff : t.off = 0 := (h.sync2_first (Bool.eq_true_of_not_eq_false hpend)).1
    exact hend (hoff ▸ h.len_pos)
  have hsync1 : t.sync1Pend = false := by
    by_contra hpend
    exact nomatch hsync2.symm.trans (h.sync1_first (Bool.eq_true_of_not_eq_false hpend))
  have hlead : t.leadRem.toNat = 0 := by
    by_contra hpos
    exact nomatch hsync1.symm.trans (h.lead_first (Nat.pos_of_ne_zero hpos))
  have hpause : t.pausePend = false := by
    by_contra hpend
    exact (h.pause_first (Bool.eq_true_of_not_eq_false hpend)).2.ne' hlead
  exact h.active
    ((Timeline.phase_complete_iff t).2 ⟨hpause, hlead, hsync1, hsync2, Nat.not_lt.1 hend⟩)

/-- The finished intervals of DATA are among those of the block's bytes. -/
theorem Timeline.Inv.dataTicks_le (h : t.Inv c m i p) :
    bytesTicks c m t.base t.off.toNat +
        highBitsTicks c (byteAt m (t.base + t.off.toNat)) (7 - t.bitx.toNat) +
        (if t.hc = 1 then bitTicks c (byteAt m (t.base + t.off.toNat)) t.bitx.toNat else 0) ≤
      bytesTicks c m t.base t.len.toNat := by
  have hbyte := highBitsTicks_succ_le c (byteAt m (t.base + t.off.toNat))
    (n := 7 - t.bitx.toNat) (by omega)
  rw [highBits_of_bit] at hbyte
  have hbytes : bytesTicks c m t.base (t.off.toNat + 1) ≤ bytesTicks c m t.base t.len.toNat :=
    bytesTicks_mono c m t.base h.off_lt
  rw [bytesTicks] at hbytes
  split_ifs <;> omega

/-- The finished intervals of an active timeline are among those of the block (R154). -/
theorem Timeline.Inv.elapsed_le (h : t.Inv c m i p) :
    t.elapsed c m i ≤ blockTicks c m i p t.len.toNat := by
  have hdata := h.dataTicks_le
  have hlead : ((leadCount c (byteAt m t.base)).toNat - t.leadRem.toNat) * c.leadT ≤
      (leadCount c (byteAt m t.base)).toNat * c.leadT := Nat.mul_le_mul_right _ (Nat.sub_le _ _)
  have hpause : (if 0 < i ∧ t.pausePend = false then c.pauseT else 0) ≤
      if 0 < i then c.pauseT else 0 := by
    by_cases hi : 0 < i
    · rw [if_pos hi]
      split_ifs <;> omega
    · rw [if_neg hi, if_neg fun hboth => hi hboth.1]
  have hsync1 : (if t.sync1Pend = true then 0 else c.sync1T) ≤ c.sync1T := by split_ifs <;> omega
  have hsync2 : (if t.sync2Pend = true then 0 else c.sync2T) ≤ c.sync2T := by split_ifs <;> omega
  unfold Timeline.elapsed blockTicks
  rw [← h.base_eq]
  omega

/-- The current interval ends within the block too: let the clock run to just before its threshold,
and one more advance finishes it. -/
theorem Timeline.Inv.elapsed_add_dur_le (hwf : c.wf = true) (hm : m.wf = true) (h : t.Inv c m i p)
    {d : Nat} (hd : t.dur c m = .ok d) :
    t.elapsed c m i + d ≤ blockTicks c m i p t.len.toNat := by
  have hclk := Config.clkHz_pos_of_wf hwf
  have hle := Timeline.clk_le_dur (Config.w2_of_wf hwf) hd
  have hbefore : (t.setAcc (d * c.srHz - 1)).Inv c m i p := h.setAcc hd (by omega)
  obtain ⟨t', flip, hadv⟩ := hbefore.advance_ok
  obtain ⟨-, helapsed, -⟩ := hbefore.elapsed_event hadv hd (by rw [Timeline.setAcc_acc]; omega)
  rw [Timeline.elapsed_setAcc] at helapsed
  obtain ⟨hlen, -⟩ := Timeline.advance_block hadv
  rw [Timeline.setAcc_len] at hlen
  rw [← helapsed, ← hlen]
  rcases hbefore.advance_cases hwf hm hadv with ⟨hinv, -⟩ | ⟨-, hplayed⟩
  · exact hinv.elapsed_le
  · exact hplayed.elapsed.1.le

/-! ### Any number of advances -/

/-- What holds of a timeline of the block at `p` after `n` advances with `k` flips. -/
structure Timeline.After (c : Config) (m : Memory) (i p n k : Nat) (t : Timeline) : Prop where
  state : t.Inv c m i p ∨ t.Played m p
  time : t.elapsed c m i * c.srHz + t.acc = n * c.clkHz
  flips : t.flips c m = k

theorem Timeline.After.len_read {n k : Nat} (h : t.After c m i p n k) : m.read16 p = some t.len :=
  h.state.elim (·.len_read) (·.len_read)

/-- Where an advance is possible, the block is not over. -/
theorem Timeline.After.inv_of_active {n k : Nat} (h : t.After c m i p n k)
    (hactive : t.phase ≠ .complete) : t.Inv c m i p :=
  h.state.resolve_right fun hplayed => hactive hplayed.complete

theorem Timeline.After.advance (hwf : c.wf = true) (hm : m.wf = true) {n k : Nat}
    (h : t.After c m i p n k) {t' : Timeline} {flip : Bool} (hadv : t.advance c m = .ok (t', flip)) :
    t'.After c m i p (n + 1) (k + flip.toNat) := by
  have hinv := h.inv_of_active (Timeline.active_of_advance hadv)
  obtain ⟨htime, hflips⟩ := hinv.elapsed_advance hadv
  exact
    { state := (hinv.advance_cases hwf hm hadv).imp And.left And.right
      time := by rw [htime, h.time, Nat.succ_mul]
      flips := by rw [hflips, h.flips] }

theorem advanceN_succ {n k : Nat} {t₀ t' : Timeline} {flip : Bool}
    (ht : advanceN c m n t₀ = .ok (t, k)) (hadv : t.advance c m = .ok (t', flip)) :
    advanceN c m (n + 1) t₀ = .ok (t', k + flip.toNat) := by
  simp only [advanceN, ht, hadv]

theorem advanceN_succ_cases {n k : Nat} {t₀ t' : Timeline}
    (h : advanceN c m (n + 1) t₀ = .ok (t', k)) :
    ∃ t j flip, advanceN c m n t₀ = .ok (t, j) ∧ t.advance c m = .ok (t', flip) ∧
      k = j + flip.toNat := by
  simp only [advanceN] at h
  split at h
  · cases h
  · split at h
    · cases h
    · cases h
      exact ⟨_, _, _, ‹_›, ‹_›, rfl⟩

section

variable {t₀ : Timeline} (hwf : c.wf = true) (hm : m.wf = true)
  (hnew : newTimeline c m i p = .ok t₀) (hpos : 0 < t₀.len.toNat)
  (hfits : p + 2 + t₀.len.toNat ≤ m.length)
include hwf hm hnew hpos hfits

theorem newTimeline_after : t₀.After c m i p 0 0 := by
  obtain ⟨helapsed, hflips, hacc⟩ := newTimeline_start hnew
  exact ⟨.inl (newTimeline_inv hwf hm hnew hpos hfits), by rw [helapsed, hacc]; omega, hflips⟩

theorem advanceN_after {n k : Nat} (h : advanceN c m n t₀ = .ok (t, k)) : t.After c m i p n k := by
  induction n generalizing t k with
  | zero =>
    cases h
    exact newTimeline_after hwf hm hnew hpos hfits
  | succ n ih =>
    obtain ⟨u, j, flip, hu, hadv, rfl⟩ := advanceN_succ_cases h
    exact (ih hu).advance hwf hm hadv

end

/-! ### When the block is over (R154) -/

theorem samplesFor_le_iff (hclk : 0 < c.clkHz) (ticks n : Nat) :
    samplesFor c ticks ≤ n ↔ ticks * c.srHz ≤ n * c.clkHz := by
  rw [samplesFor, ← Nat.lt_succ_iff, Nat.div_lt_iff_lt_mul hclk, Nat.succ_mul]
  omega

/-- The block is over from step `S_i` on, and not before. -/
theorem Timeline.After.complete_iff (hwf : c.wf = true) (hm : m.wf = true) {n k : Nat}
    (h : t.After c m i p n k) :
    t.phase = .complete ↔ blockSamples c m i p t.len.toNat ≤ n := by
  rw [blockSamples, samplesFor_le_iff (Config.clkHz_pos_of_wf hwf), ← h.time]
  rcases h.state with hinv | hplayed
  · obtain ⟨d, hd, hlt⟩ := hinv.in_time
    have hle := Nat.mul_le_mul_right c.srHz (hinv.elapsed_add_dur_le hwf hm hd)
    rw [Nat.add_mul] at hle
    exact iff_of_false hinv.active (by omega)
  · rw [← (hplayed.elapsed (c := c) (i := i)).1]
    exact iff_of_true hplayed.complete (Nat.le_add_right _ _)

/-- Until the block is over every advance answers (R236). -/
theorem advanceN_ok {t₀ : Timeline} (hwf : c.wf = true) (hm : m.wf = true)
    (hnew : newTimeline c m i p = .ok t₀) (hpos : 0 < t₀.len.toNat)
    (hfits : p + 2 + t₀.len.toNat ≤ m.length) {n : Nat}
    (hn : n ≤ blockSamples c m i p t₀.len.toNat) :
    ∃ t k, advanceN c m n t₀ = .ok (t, k) ∧ t.After c m i p n k ∧ t.len = t₀.len := by
  have hlen : ∀ {t n k}, Timeline.After c m i p n k t → t.len = t₀.len := fun h =>
    Option.some.inj (h.len_read.symm.trans
      (newTimeline_after hwf hm hnew hpos hfits).len_read)
  induction n with
  | zero =>
    have hstart := newTimeline_after hwf hm hnew hpos hfits
    exact ⟨t₀, 0, rfl, hstart, hlen hstart⟩
  | succ n ih =>
    obtain ⟨t, k, ht, hafter, hlen_t⟩ := ih (by omega)
    have hactive : t.phase ≠ .complete := by
      rw [Ne, hafter.complete_iff hwf hm, hlen_t]
      omega
    obtain ⟨t', flip, hadv⟩ := (hafter.inv_of_active hactive).advance_ok
    have hnext := hafter.advance hwf hm hadv
    exact ⟨t', _, advanceN_succ ht hadv, hnext, hlen hnext⟩

end

/-- Settles O23: the sum is the invariant of the advances; an interval that is not over is longer than
the accumulator. -/
theorem timelineTimeIsExact : Obligations.TimelineTimeIsExact := by
  intro c m i p n k t₀ t hwf hm hnew hpos hfits hrun
  have hafter := advanceN_after hwf hm hnew hpos hfits hrun
  refine ⟨hafter.time, fun d hd => ?_⟩
  have hactive : t.phase ≠ .complete := fun hp =>
    nomatch (Timeline.dur_of_complete c m hp).symm.trans hd
  obtain ⟨d', hd', hlt⟩ := (hafter.inv_of_active hactive).in_time
  obtain rfl : d' = d := Except.ok.inj (hd'.symm.trans hd)
  rw [← hafter.time, Nat.add_mul]
  omega

/-- Settles O24: the advances answer up to step `S_i`, and the block is over there and not before. -/
theorem blockCompletesOnTime : Obligations.BlockCompletesOnTime := by
  intro c m i p t₀ hwf hm hnew hpos hfits
  refine ⟨?_, fun n hn => ?_⟩
  · obtain ⟨t, k, hrun, hafter, hlen⟩ := advanceN_ok hwf hm hnew hpos hfits le_rfl
    have hcomplete : t.phase = .complete := by rw [hafter.complete_iff hwf hm, hlen]
    have hplayed : t.Played m p := hafter.state.resolve_left fun hinv => hinv.active hcomplete
    have hlead : t₀.leadRem.toNat = (leadCount c (byteAt m (p + 2))).toNat := by
      obtain ⟨L, flag, -, hflag, rfl⟩ := newTimeline_cases hnew
      rw [byteAt_of_read hflag]
    refine ⟨t, ?_, hcomplete⟩
    rw [hrun, hlead, ← hlen, ← (hplayed.elapsed (i := i)).2, hafter.flips]
  · obtain ⟨t, k, hrun, hafter, hlen⟩ := advanceN_ok hwf hm hnew hpos hfits hn.le
    refine ⟨t, k, hrun, ?_⟩
    rw [Ne, hafter.complete_iff hwf hm, hlen]
    omega

end Sys2Proof.Machine

/-! PROOFS. The exact time of the border sampler (43_border.md R219). -/

namespace Sys2Proof.Machine

section

variable {c : Config} {b : Border}

/-- The sampler after `n` records with `q` commits: the accumulator holds what the commits have not
taken, and is empty only at the start. -/
structure Border.After (c : Config) (n q : Nat) (b : Border) : Prop where
  line : b.line.toNat = q % c.nLines
  time : b.bacc + q * c.lineBudget = n * c.clkHz
  le_budget : b.bacc ≤ c.lineBudget
  pos : 0 < n → 0 < b.bacc

/-- A commit moves the scanline counter on by one, modulo `N_LINES` (R214). -/
theorem Border.nextLine_line (hmax : c.nLines ≤ 512) (fin : Bool) {q : Nat}
    (hline : b.line.toNat = q % c.nLines) (hlines : 0 < c.nLines) :
    (b.nextLine c fin).1.line.toNat = (q + 1) % c.nLines := by
  have hlt : q % c.nLines < c.nLines := Nat.mod_lt _ hlines
  rw [← Nat.mod_add_mod, ← hline]
  by_cases hwrap : b.line.toNat + 1 = c.nLines
  · rw [(Border.nextLine_at_wrap fin hwrap).1, hwrap, Nat.mod_self]
    rfl
  · have hinside : b.line.toNat + 1 < c.nLines := by omega
    rw [(Border.nextLine_inside_frame fin hmax hinside).1, Nat.mod_eq_of_lt hinside]

/-- One record adds one sample period, and takes one budget where there is more than one (R211). -/
theorem Border.After.record (hwf : c.wf = true) {n q : Nat} (h : b.After c n q) (fin : Bool)
    (sgn : Sign) (lo hi : Colour) :
    ∃ q', (b.record c fin sgn lo hi).1.After c (n + 1) q' := by
  have hclk := Config.clkHz_pos_of_wf hwf
  have hw3 := Config.w3_of_wf hwf
  have htime := h.time
  have hle := h.le_budget
  rcases Nat.lt_or_ge c.lineBudget (b.bacc + c.clkHz) with hlt | hge
  · rw [Border.record_of_lt c fin sgn lo hi b hlt]
    refine ⟨q + 1, ?_, ?_, ?_, fun _ => ?_⟩
    · exact Border.nextLine_line (Config.nLines_le_of_wf hwf) fin
        (by rw [Border.store_line, h.line]) (Config.nLines_pos_of_wf hwf)
    all_goals rw [Border.nextLine_bacc, Border.store_bacc]
    · rw [Nat.succ_mul, Nat.succ_mul, ← htime]
      show b.bacc + c.clkHz - c.lineBudget + _ = _
      omega
    · show b.bacc + c.clkHz - c.lineBudget ≤ c.lineBudget
      omega
    · show 0 < b.bacc + c.clkHz - c.lineBudget
      omega
  · rw [Border.record_of_le c fin sgn lo hi b hge]
    refine ⟨q, h.line, ?_, hge, fun _ => Nat.add_pos_right _ hclk⟩
    rw [Nat.succ_mul, ← htime]
    show b.bacc + c.clkHz + _ = _
    omega

theorem Border.After.recordAll (hwf : c.wf = true) (fin : Bool)
    (feeds : List (Sign × Colour × Colour)) {n q : Nat} (h : b.After c n q) :
    ∃ q', (Border.recordAll c fin feeds b).After c (n + feeds.length) q' := by
  induction feeds generalizing b n q with
  | nil => exact ⟨q, h⟩
  | cons feed feeds ih =>
    obtain ⟨sgn, lo, hi⟩ := feed
    obtain ⟨q', hnext⟩ := h.record hwf fin sgn lo hi
    obtain ⟨q'', hrest⟩ := ih hnext
    rw [List.length_cons, Nat.add_comm feeds.length, ← Nat.add_assoc]
    exact ⟨q'', hrest⟩

/-- The number of commits: each takes a budget, and the accumulator is left with more than nothing
and no more than one. -/
theorem Border.After.commits (hwf : c.wf = true) {n q : Nat} (h : b.After c n q) :
    (n * c.clkHz - 1) / c.lineBudget = q := by
  have hbudget : 0 < c.lineBudget :=
    lt_of_lt_of_le (Config.clkHz_pos_of_wf hwf) (Config.w3_of_wf hwf)
  have htime := h.time
  have hle := h.le_budget
  rcases Nat.eq_zero_or_pos n with rfl | hn
  · rw [Nat.zero_mul] at htime ⊢
    have hq : q * c.lineBudget = 0 := by omega
    rcases Nat.mul_eq_zero.1 hq with rfl | hzero
    · exact Nat.zero_div _
    · omega
  · have hpos := h.pos hn
    rw [Nat.div_eq_iff hbudget]
    omega

end

/-- Settles O39: the records keep count, and the count is the closed form. -/
theorem commitTimingIsExact : Obligations.CommitTimingIsExact := by
  intro c fin feeds b hwf hline hbacc
  have hstart : b.After c 0 0 :=
    ⟨by rw [hline, Nat.zero_mod]; rfl, by rw [hbacc]; omega, hbacc ▸ Nat.zero_le _, nofun⟩
  obtain ⟨q, hafter⟩ := hstart.recordAll hwf fin feeds
  rw [Nat.zero_add] at hafter
  have hq : (feeds.length * c.clkHz - 1) / (c.lineT * c.srHz) = q := hafter.commits hwf
  rw [hq]
  exact ⟨hafter.line, hafter.time⟩

end Sys2Proof.Machine

/-! PROOFS. A whole playback, block by block (42_encoder.md R193). -/

namespace Sys2Proof.Machine

/-! ### Repeated SAMPLEs -/

theorem sampleN_succ_cases {n : Nat} {s u : State} (h : sampleN (n + 1) s = some u) :
    ∃ t, sampleN n s = some t ∧ execSample t = .next u := by
  simp only [sampleN] at h
  split at h
  · split at h
    · cases h
      exact ⟨_, ‹_›, ‹_›⟩
    · cases h
    · cases h
  · cases h

theorem sampleN_add {n k : Nat} {s t u : State} (ht : sampleN n s = some t)
    (hu : sampleN k t = some u) : sampleN (n + k) s = some u := by
  induction k generalizing u with
  | zero => exact ht.trans hu
  | succ k ih =>
    obtain ⟨v, hv, hexec⟩ := sampleN_succ_cases hu
    exact sampleN_succ (ih hv) hexec

/-- SAMPLEs that answer have answered all along, and what finishes stays finished. -/
theorem sampleN_before {n k : Nat} {s t : State} (ht : sampleN (n + k) s = some t) :
    ∃ u, sampleN n s = some u ∧ (u.fin = true → t.fin = true) := by
  induction k generalizing t with
  | zero => exact ⟨t, ht, id⟩
  | succ k ih =>
    obtain ⟨v, hv, hexec⟩ := sampleN_succ_cases (n := n + k) ht
    obtain ⟨u, hu, hfin⟩ := ih hv
    exact ⟨u, hu, fun h => execSample_fin hexec (hfin h)⟩

theorem State.Inv.of_sampleN {n : Nat} {s t : State} (h : s.Inv) (ht : sampleN n s = some t) :
    t.Inv := by
  induction n generalizing t with
  | zero => cases ht; exact h
  | succ n ih =>
    obtain ⟨u, hu, hexec⟩ := sampleN_succ_cases ht
    exact (ih hu).of_execSample hexec

theorem SampleKeeps.refl (s : State) : SampleKeeps s s := ⟨rfl, rfl, rfl, rfl, rfl, rfl, rfl⟩

theorem SampleKeeps.trans {s t u : State} (h₁ : SampleKeeps s t) (h₂ : SampleKeeps t u) :
    SampleKeeps s u :=
  ⟨h₂.cfg.trans h₁.cfg, h₂.att.trans h₁.att, h₂.cont.trans h₁.cont, h₂.blk.trans h₁.blk,
    h₂.inputs.trans h₁.inputs, h₂.faulted.trans h₁.faulted, h₂.refusedSeen.trans h₁.refusedSeen⟩

/-! ### One block -/

/-- The state `u` while the block that was due in `s` is played, and `t` is its timeline. -/
structure PlayingBlock (s u : State) (t : Timeline) : Prop where
  keeps : SampleKeeps s u
  fin : u.fin = false
  active : t.phase ≠ .complete → u.bidx = s.bidx ∧ execSample u = u.runTimeline t
  ended : t.phase = .complete → u.bidx = s.bidx + 1 ∧ u.tl = none

/-- A SAMPLE inside a block advances its timeline. -/
theorem PlayingBlock.sample {s u : State} {t t' : Timeline} {flip : Bool} (h : PlayingBlock s u t)
    (hatt : s.att = true) (hadv : t.advance s.cfg s.cont = .ok (t', flip)) :
    ∃ v, execSample u = .next v ∧ PlayingBlock s v t' := by
  obtain ⟨hbidx, hrun⟩ := h.active (Timeline.active_of_advance hadv)
  rw [← h.keeps.cfg, ← h.keeps.cont] at hadv
  have hexec : execSample u = .next (u.playSample t t' flip) :=
    hrun.trans (State.runTimeline_of_ok hadv)
  have hkeeps := h.keeps.trans (execSample_keeps hexec)
  refine ⟨_, hexec, hkeeps, ?_, fun hactive => ?_, fun hcomplete => ?_⟩
  · rw [State.playSample_eq]
    exact h.fin
  · have htl : (u.playSample t t' flip).tl = some t' := by
      rw [State.playSample_eq]
      exact if_neg hactive
    refine ⟨?_, execSample_of_timeline (hkeeps.att.trans hatt) ?_ htl⟩
    · rw [State.playSample_eq]
      exact (if_neg hactive).trans hbidx
    · rw [State.playSample_eq]
      exact h.fin
  · rw [State.playSample_eq]
    exact ⟨(if_pos hcomplete).trans (congrArg (· + 1) hbidx), if_pos hcomplete⟩

/-- The state between two blocks of a playback. -/
structure BetweenBlocks (s : State) : Prop where
  inv : s.Inv
  att : s.att = true
  fin : s.fin = false
  tl : s.tl = none

/-- `n` SAMPLEs from the start of a block advance its timeline `n` times. -/
theorem BetweenBlocks.playing {s : State} (h : BetweenBlocks s) {p : Nat}
    (hp : s.blk[s.bidx]? = some p) {t₀ : Timeline}
    (hnew : newTimeline s.cfg s.cont s.bidx p = .ok t₀) {n k : Nat} {t : Timeline}
    (hrun : advanceN s.cfg s.cont n t₀ = .ok (t, k)) :
    ∃ u, sampleN n s = some u ∧ PlayingBlock s u t := by
  induction n generalizing t k with
  | zero =>
    cases hrun
    have hphase := newTimelinePhaseIsPauseOrLead _ _ _ _ _ h.inv.cfg_wf hnew
    refine ⟨s, rfl, .refl s, h.fin, fun _ => ⟨rfl, ?_⟩, fun hcomplete => ?_⟩
    · exact (execSample_of_no_timeline h.att h.fin h.tl).trans (State.startOrFinish_of_block hp hnew)
    · rw [hphase] at hcomplete
      split at hcomplete <;> cases hcomplete
  | succ n ih =>
    obtain ⟨t', j, flip, hrun', hadv, -⟩ := advanceN_succ_cases hrun
    obtain ⟨u, hu, hplaying⟩ := ih hrun'
    obtain ⟨v, hexec, hplaying'⟩ := hplaying.sample h.att hadv
    exact ⟨v, sampleN_succ hu hexec, hplaying'⟩

/-- A block takes its `S_i` SAMPLEs, and then the next one is due (R154, R186). -/
theorem BetweenBlocks.block {s : State} (h : BetweenBlocks s) {p : Nat}
    (hp : s.blk[s.bidx]? = some p) :
    ∃ u, sampleN (blockSamples s.cfg s.cont s.bidx p (lenAt s.cont p)) s = some u ∧
      SampleKeeps s u ∧ BetweenBlocks u ∧ u.bidx = s.bidx + 1 := by
  obtain ⟨t₀, hnew, hlen, hinv⟩ :=
    newTimeline_of_block h.inv.cfg_wf h.inv.cont_wf h.inv.blk_walk hp s.bidx
  obtain ⟨⟨t, hrun, hcomplete⟩, -⟩ := blockCompletesOnTime s.cfg s.cont s.bidx p t₀ h.inv.cfg_wf
    h.inv.cont_wf hnew hinv.len_pos hinv.fits
  obtain ⟨u, hu, hplaying⟩ := h.playing hp hnew hrun
  obtain ⟨hbidx, htl⟩ := hplaying.ended hcomplete
  rw [hlen] at hu
  exact ⟨u, hu, hplaying.keeps,
    ⟨h.inv.of_sampleN hu, hplaying.keeps.att.trans h.att, hplaying.fin, htl⟩, hbidx⟩

/-! ### All blocks that are left -/

theorem BetweenBlocks.blocks {s : State} (h : BetweenBlocks s) :
    ∃ u, sampleN (playSamplesFrom s.cfg s.cont s.bidx (s.blk.drop s.bidx)) s = some u ∧
      SampleKeeps s u ∧ BetweenBlocks u ∧ u.bidx = s.nblk := by
  induction hleft : s.blk.drop s.bidx generalizing s with
  | nil =>
    have hend : s.nblk ≤ s.bidx := List.drop_eq_nil_iff.1 hleft
    exact ⟨s, rfl, .refl s, h, Nat.le_antisymm h.inv.bidx_le hend⟩
  | cons p ps ih =>
    have hp : s.blk[s.bidx]? = some p := by
      rw [← Nat.add_zero s.bidx, ← List.getElem?_drop, hleft]
      rfl
    obtain ⟨t, ht, hkeeps, hbetween, hbidx⟩ := h.block hp
    have hrest : t.blk.drop t.bidx = ps := by
      rw [hkeeps.blk, hbidx, ← List.drop_drop, hleft]
      rfl
    obtain ⟨u, hu, hkeeps', hbetween', hbidx'⟩ := ih hbetween hrest
    rw [hkeeps.cfg, hkeeps.cont, hbidx] at hu
    refine ⟨u, sampleN_add ht hu, hkeeps.trans hkeeps', hbetween', hbidx'.trans ?_⟩
    rw [State.nblk_eq, State.nblk_eq, hkeeps.blk]

/-- With every block played the next SAMPLE finishes (R183, R216). -/
theorem BetweenBlocks.finish {s : State} (h : BetweenBlocks s) (hend : s.nblk ≤ s.bidx) :
    ∃ t r, execSample s = .next t ∧ t.fin = true ∧ t.out = some r ∧
      r.events = [.done, .frame (List.replicate s.cfg.nStored s.cfg.colIdle)] := by
  have hexec := (execSample_of_no_timeline h.att h.fin h.tl).trans
    (State.startOrFinish_of_no_block hend)
  rw [State.idleSample_finish] at hexec
  exact ⟨_, _, hexec, rfl, rfl, rfl⟩

/-- Settles O34: the blocks one after the other, then the finish; what has finished at the end of the
last block would have finished before it, so no SAMPLE up to there sets `fin`. -/
theorem playbackTakesItsClosedForm : Obligations.PlaybackTakesItsClosedForm := by
  intro s hinv hatt hfin htl hbidx
  obtain ⟨u, hu, hkeeps, hbetween, hend⟩ := BetweenBlocks.blocks ⟨hinv, hatt, hfin, htl⟩
  rw [hbidx, List.drop_zero] at hu
  refine ⟨fun n hn => ?_, ⟨u, hu, hend, hbetween.tl⟩, ?_⟩
  · rw [← Nat.add_sub_cancel' hn] at hu
    obtain ⟨t, ht, hset⟩ := sampleN_before hu
    exact ⟨t, ht, Bool.eq_false_of_not_eq_true fun h => nomatch hbetween.fin.symm.trans (hset h)⟩
  · have hlast : u.nblk ≤ u.bidx := by rw [hend, State.nblk_eq, State.nblk_eq, hkeeps.blk]
    obtain ⟨t, r, hexec, hdone, hout, hev⟩ := hbetween.finish hlast
    rw [hkeeps.cfg] at hev
    exact ⟨t, r, sampleN_succ hu hexec, hdone, hout, hev⟩

end Sys2Proof.Machine

/-! PROOFS. Rounding and the output filter (00_scope.md R9, 42_encoder.md R188, 70_reset_and_hazards.md
R269). -/

namespace Sys2Proof.Binary64

/-! ### Nearest on the grid -/

/-- `roundDiv` answers the nearest multiple of `d`, and of two as near the even one. -/
theorem roundDiv_nearest (n a : Nat) {d : Nat} (hd : 0 < d) :
    ((roundDiv n d * d : Nat) - (n : Nat) : Int).natAbs ≤ ((a * d : Nat) - (n : Nat) : Int).natAbs ∧
      (((roundDiv n d * d : Nat) - (n : Nat) : Int).natAbs =
          ((a * d : Nat) - (n : Nat) : Int).natAbs →
        roundDiv n d ≠ a → roundDiv n d % 2 = 0) := by
  have hn : n / d * d + n % d = n := Nat.div_add_mod' n d
  have hr : n % d < d := Nat.mod_lt n hd
  have hbelow : a < n / d → a * d + d ≤ n / d * d := fun h => by
    rw [← Nat.succ_mul]
    exact Nat.mul_le_mul_right d h
  have habove : n / d + 1 < a → (n / d + 1) * d + d ≤ a * d := fun h => by
    rw [← Nat.succ_mul]
    exact Nat.mul_le_mul_right d h
  have hcases : a < n / d ∨ a = n / d ∨ a = n / d + 1 ∨ n / d + 1 < a := by omega
  have hsucc : (n / d + 1) * d = n / d * d + d := Nat.succ_mul _ _
  unfold roundDiv
  generalize n / d = q at *
  generalize n % d = r at *
  rcases hcases with h | rfl | rfl | h
  · have := hbelow h
    split_ifs <;> omega
  · split_ifs <;> omega
  · split_ifs <;> omega
  · have := habove h
    split_ifs <;> omega

/-- Packing keeps the value, and leaves an even significand even. -/
theorem pack_eq_finite {neg s : Bool} {q g m e : Nat} (h : pack neg q g = .finite s m e) :
    s = neg ∧ m * 2 ^ e = q * 2 ^ g ∧ (q % 2 = 0 → m % 2 = 0) := by
  unfold pack at h
  split_ifs at h with hq <;> cases h
  · exact ⟨rfl, by rw [hq, pow_succ]; ring, fun _ => by norm_num⟩
  · exact ⟨rfl, rfl, id⟩

/-- A value on a coarser grid is one on the finer grid. -/
theorem mul_two_pow_of_le {m' e' g : Nat} (h : g ≤ e') : m' * 2 ^ e' = m' * 2 ^ (e' - g) * 2 ^ g := by
  rw [Nat.mul_assoc, ← Nat.pow_add, Nat.sub_add_cancel h]

/-- A binary64 value on a finer grid than that around `n / 2^k` lies below all of the grid's normal
significands. -/
theorem mul_two_pow_lt_of_lt {neg : Bool} {m' e' g : Nat} (hv : valid (.finite neg m' e') = true)
    (h : e' < g) : m' * 2 ^ e' < 2 ^ 52 * 2 ^ g := by
  have hm : m' < 2 ^ 53 := (of_decide_eq_true hv).1
  calc m' * 2 ^ e' < 2 ^ 53 * 2 ^ e' := Nat.mul_lt_mul_of_pos_right hm (Nat.two_pow_pos _)
    _ = 2 ^ 52 * 2 ^ (e' + 1) := by rw [pow_succ 2 e']; ring
    _ ≤ 2 ^ 52 * 2 ^ g := Nat.mul_le_mul_left _ (Nat.pow_le_pow_right (by norm_num) h)

/-- No binary64 value is nearer than the rounded one, and one that is as near leaves it even. -/
theorem round_nearest {neg s neg' : Bool} {n k m e m' e' : Nat} (h : round neg n k = .finite s m e)
    (hv : valid (.finite neg' m' e') = true) :
    ((m * 2 ^ e * 2 ^ k : Nat) - (n : Nat) : Int).natAbs ≤
        ((m' * 2 ^ e' * 2 ^ k : Nat) - (n : Nat) : Int).natAbs ∧
      (((m * 2 ^ e * 2 ^ k : Nat) - (n : Nat) : Int).natAbs =
          ((m' * 2 ^ e' * 2 ^ k : Nat) - (n : Nat) : Int).natAbs →
        m * 2 ^ e ≠ m' * 2 ^ e' → m % 2 = 0) := by
  have hd : 0 < 2 ^ (k + gridExp n k) := Nat.two_pow_pos _
  obtain ⟨-, hvalue, heven⟩ := pack_eq_finite h
  have hgrid : ∀ a, a * 2 ^ gridExp n k * 2 ^ k = a * 2 ^ (k + gridExp n k) := fun a => by
    rw [Nat.mul_assoc, ← Nat.pow_add, Nat.add_comm]
  rw [hvalue, hgrid]
  rcases Nat.lt_or_ge e' (gridExp n k) with hlt | hge
  · have hnear := (roundDiv_nearest n (2 ^ 52) hd).1
    have hq := grid_quotient_ge n k (Nat.ne_zero_of_lt hlt)
    have hfloor : 2 ^ 52 * 2 ^ (k + gridExp n k) ≤ n :=
      (Nat.mul_le_mul_right _ hq).trans (Nat.div_mul_le_self _ _)
    have hbelow : m' * 2 ^ e' * 2 ^ k < 2 ^ 52 * 2 ^ (k + gridExp n k) := by
      rw [← hgrid]
      exact Nat.mul_lt_mul_of_pos_right (mul_two_pow_lt_of_lt hv hlt) (Nat.two_pow_pos _)
    generalize roundDiv n (2 ^ (k + gridExp n k)) * 2 ^ (k + gridExp n k) = x at *
    generalize 2 ^ 52 * 2 ^ (k + gridExp n k) = y at *
    generalize m' * 2 ^ e' * 2 ^ k = z at *
    omega
  · obtain ⟨hnear, htie⟩ := roundDiv_nearest n (m' * 2 ^ (e' - gridExp n k)) hd
    rw [mul_two_pow_of_le hge, hgrid]
    exact ⟨hnear, fun heq hne => heven (htie heq fun hsame => hne (by rw [hsame]))⟩

/-- Settles O35: a rounded result has the sign given and is a binary64 value, and none is nearer. -/
theorem roundingIsNearestEven : Obligations.RoundingIsNearestEven := by
  intro neg s n k m e m' e' h hv
  obtain ⟨hnear, htie⟩ := round_nearest h hv
  exact ⟨(pack_eq_finite h).1, h ▸ valid_round neg n k, hnear, htie⟩

/-! ### Rounding is monotone -/

/-- Far below the largest binary64 value a rounded result is finite, with the sign given. -/
theorem round_finite (neg : Bool) {n k : Nat} (h : n / 2 ^ k < 2 ^ 2097) :
    ∃ m e, round neg n k = .finite neg m e := by
  have hexp : gridExp n k ≤ 2044 := by
    rcases gridExp_cases n k with ⟨h0, -⟩ | ⟨hge, -⟩
    · omega
    · have := (Nat.pow_lt_pow_iff_right (by norm_num)).1 (lt_of_le_of_lt hge h)
      omega
  unfold round pack
  by_cases hq : roundDiv n (2 ^ (k + gridExp n k)) = 2 ^ 53
  · rw [if_pos hq, if_neg (show ¬ 2045 < gridExp n k + 1 by omega)]
    exact ⟨_, _, rfl⟩
  · rw [if_neg hq, if_neg (show ¬ 2045 < gridExp n k by omega)]
    exact ⟨_, _, rfl⟩

/-- Of two numbers the lower one is rounded to the lower value. -/
theorem round_mono {neg neg' s s' : Bool} {n n' k m e m' e' : Nat} (hle : n ≤ n')
    (h : round neg n k = .finite s m e) (h' : round neg' n' k = .finite s' m' e') :
    m * 2 ^ e ≤ m' * 2 ^ e' := by
  rcases hle.eq_or_lt with rfl | hlt
  · obtain ⟨-, hvalue, -⟩ := pack_eq_finite h
    obtain ⟨-, hvalue', -⟩ := pack_eq_finite h'
    exact (hvalue.trans hvalue'.symm).le
  have hnear := (round_nearest h (h' ▸ valid_round neg' n' k)).1
  have hnear' := (round_nearest h' (h ▸ valid_round neg n k)).1
  by_contra hgt
  have hgt : m' * 2 ^ e' * 2 ^ k < m * 2 ^ e * 2 ^ k :=
    Nat.mul_lt_mul_of_pos_right (Nat.not_le.1 hgt) (Nat.two_pow_pos _)
  generalize m * 2 ^ e * 2 ^ k = x at *
  generalize m' * 2 ^ e' * 2 ^ k = y at *
  omega

/-! ### The filter at LEVEL 0.1 -/

theorem mul_finite (s t : Bool) (m e n f : Nat) :
    mul (.finite s m e) (.finite t n f) = round (s ^^ t) (m * 2 ^ e * (n * 2 ^ f)) 1074 := rfl

theorem add_finite_of_ne_zero {s t : Bool} {m e n f : Nat}
    (h : signedUnits s m e + signedUnits t n f ≠ 0) :
    add (.finite s m e) (.finite t n f) =
      round (decide (signedUnits s m e + signedUnits t n f < 0))
        (signedUnits s m e + signedUnits t n f).natAbs 0 :=
  if_neg h

/-- A quarter of LEVEL, in units of `2^-1074`. -/
def quarterLevel : Nat := 0x1999999999999A * 2 ^ 1016

/-- The rounded product of LEVEL and 0.75, in units of `2^-1074`. -/
def threeQuarterLevel : Nat := 0x13333333333334 * 2 ^ 1018

/-- LEVEL times 0.75, which rounds up. -/
theorem mul_threeQuarters_level (sx : Bool) :
    mul (.finite sx 0x1999999999999A 1018) threeQuarters =
      .finite sx 0x13333333333334 1018 := by
  cases sx <;> decide +kernel

/-- A filter state within LEVEL, times 0.25, is within a quarter of it: rounding is monotone, and a
quarter of LEVEL needs none. -/
theorem mul_quarter_le {sy : Bool} {my ey : Nat} (h : my * 2 ^ ey ≤ 0x1999999999999A * 2 ^ 1018) :
    ∃ m e, mul (.finite sy my ey) quarter = .finite sy m e ∧ m * 2 ^ e ≤ quarterLevel := by
  have hlevel : round false (0x1999999999999A * 2 ^ 1018 * (2 ^ 52 * 2 ^ 1020)) 1074 =
      .finite false 0x1999999999999A 1016 := by decide +kernel
  have hle := Nat.mul_le_mul_right (2 ^ 52 * 2 ^ 1020) h
  have hrange : my * 2 ^ ey * (2 ^ 52 * 2 ^ 1020) / 2 ^ 1074 < 2 ^ 2097 :=
    lt_of_le_of_lt (Nat.div_le_div_right hle) (by decide +kernel)
  obtain ⟨m, e, hround⟩ := round_finite sy hrange
  refine ⟨m, e, ?_, round_mono hle hround hlevel⟩
  rw [quarter, mul_finite, Bool.xor_false, hround]

/-- The sum of a term and a greater one has the sign of the greater, and lies between their difference
and their sum. -/
theorem signedUnits_add {m e n f : Nat} (s t : Bool) (h : m * 2 ^ e < n * 2 ^ f) :
    signedUnits s m e + signedUnits t n f ≠ 0 ∧
      decide (signedUnits s m e + signedUnits t n f < 0) = t ∧
      n * 2 ^ f - m * 2 ^ e ≤ (signedUnits s m e + signedUnits t n f).natAbs ∧
      (signedUnits s m e + signedUnits t n f).natAbs ≤ n * 2 ^ f + m * 2 ^ e := by
  unfold signedUnits
  generalize m * 2 ^ e = x at *
  generalize n * 2 ^ f = y at *
  refine ⟨?nonzero, ?sign, ?lower, ?upper⟩
  case sign =>
    cases t <;> simp only [Bool.false_eq_true, if_true, if_false, decide_eq_true_eq,
      decide_eq_false_iff_not] <;> split_ifs <;> omega
  case nonzero | lower | upper => split_ifs <;> omega

/-- A term within a quarter of LEVEL beside the rounded three quarters: the sum keeps the sign of the
latter and is rounded into LEVEL, the largest one by a tie that goes to LEVEL. -/
theorem add_threeQuarterLevel {s t : Bool} {m e : Nat} (h : m * 2 ^ e ≤ quarterLevel) :
    ∃ m' e', add (.finite s m e) (.finite t 0x13333333333334 1018) = .finite t m' e' ∧ 0 < m' ∧
      m' * 2 ^ e' ≤ 0x1999999999999A * 2 ^ 1018 := by
  have hless : quarterLevel < threeQuarterLevel := by decide +kernel
  have hlow : round false (threeQuarterLevel - quarterLevel) 0 =
      .finite false 0x1999999999999B 1017 := by decide +kernel
  have hhigh : round false (threeQuarterLevel + quarterLevel) 0 =
      .finite false 0x1999999999999A 1018 := by decide +kernel
  obtain ⟨hne, hneg, hge, hle⟩ := signedUnits_add (n := 0x13333333333334) (f := 1018) s t
    (lt_of_le_of_lt h hless)
  have hge := (Nat.sub_le_sub_left h threeQuarterLevel).trans hge
  have hle := hle.trans (Nat.add_le_add_left h threeQuarterLevel)
  have hrange : (signedUnits s m e + signedUnits t 0x13333333333334 1018).natAbs / 2 ^ 0 <
      2 ^ 2097 := by
    rw [Nat.pow_zero, Nat.div_one]
    exact lt_of_le_of_lt hle (by decide +kernel)
  obtain ⟨m', e', hround⟩ := round_finite t hrange
  refine ⟨m', e', ?_, ?_, round_mono hle hround hhigh⟩
  · rw [add_finite_of_ne_zero hne, hneg, hround]
  · have hpos : 0 < m' * 2 ^ e' :=
      lt_of_lt_of_le (by decide +kernel) (round_mono hge hlow hround)
    exact (Nat.mul_pos_iff_of_pos_right (Nat.two_pow_pos e')).1 hpos

/-- Settles O36: the two products, then their sum. -/
theorem filterKeepsSignAndBound : Obligations.FilterKeepsSignAndBound := by
  intro sy sx my ey _ hle
  obtain ⟨m, e, hmul, hbound⟩ := mul_quarter_le (sy := sy) hle
  rw [filterStep, hmul, mul_threeQuarters_level]
  exact add_threeQuarterLevel hbound

/-- Settles O37: each step of V-F1 is computed, the products of the fixed point too. -/
theorem filterMeetsVectors : Obligations.FilterMeetsVectors := by
  unfold Obligations.FilterMeetsVectors
  decide +kernel

end Sys2Proof.Binary64
